-- ==== Sys2Proof/Word.lean ====
section
/-! DEFINITION. The one word of the hardware, the byte, and the byte lists built from it.

Rule R10: a byte is 8 bits, numbered 7 down to 0, and no datum of the block is wider than one byte
(rule R54), so no byte order is defined anywhere below. -/

namespace Sys2Proof

/-- A byte (rule R10): bit 7 is the most significant, bit 0 the least significant. -/
abbrev Byte := BitVec 8

/-- One bus write transaction: the bytes in order of transmission (rules R13 and R33).  The first
byte is the control byte. -/
abbrev Transaction := List Byte

end Sys2Proof
end

