-- ==== Sys2Proof/Config.lean ====
section
/-! DEFINITION. What an implementation fixes at build time (rules R8, R9 and R31), and the values
the spec leaves open (free values: constants with no body). -/

namespace Sys2Proof.Config

/-- `WIDTH`, the display width in pixels (rule R8). -/
abbrev width : Nat := 128

/-- The two geometries the spec defines (rule R8).  Any other pair is refused by the spec
(decision D22): here it cannot be written down. -/
inductive Geometry where
  /-- 128 columns by 64 rows, the default. -/
  | g128x64
  /-- 128 columns by 32 rows. -/
  | g128x32
  deriving DecidableEq, Repr

/-- `HEIGHT`, the display height in pixels (rule R8). -/
def Geometry.height : Geometry → Nat
  | .g128x64 => 64
  | .g128x32 => 32

/-- `PAGES = HEIGHT / 8` (rule R8). -/
def Geometry.pages (g : Geometry) : Nat := g.height / 8

/-- `FB_LEN = PAGES × WIDTH`, the framebuffer length in bytes (rule R8). -/
def Geometry.fbLen (g : Geometry) : Nat := g.pages * width

/-- The numeric values of the nineteen display command names, `CMD_<NAME>` (rules R9 and R93).
They are open parameters of the spec: any bytes that satisfy rule R92 (`CmdCodes.legal`). -/
structure CmdCodes where
  memMode : Byte
  colAddr : Byte
  pageAddr : Byte
  horizScroll : Byte
  scroll : Byte
  dispStartLine : Byte
  contrast : Byte
  chargePump : Byte
  segRemap : Byte
  entireOn : Byte
  normDisp : Byte
  muxRatio : Byte
  disp : Byte
  comOutDir : Byte
  dispOffset : Byte
  dispClkDiv : Byte
  precharge : Byte
  comPinCfg : Byte
  vcomDesel : Byte
  deriving DecidableEq, Repr

/-- The constraint of rule R92: a code has zeros where an OR-ed value may have ones. -/
def CmdCodes.legal (c : CmdCodes) : Bool :=
  !c.disp.getLsbD 0 && !c.segRemap.getLsbD 0 && !c.scroll.getLsbD 0 && !c.comOutDir.getLsbD 3

/-- The build parameters of one block (rules R8, R9 and R31).  No step writes them. -/
structure Build where
  /-- The display geometry (rule R8). -/
  geom : Geometry
  /-- The command codes `CMD_*` (rule R93). -/
  cmd : CmdCodes
  /-- Glyphs 1 to 40 of the table `GLYPH`, eight bytes each, in index order (rules R53 and R141).
  Glyph 0 is blank, eight zero bytes, and needs no storage (rule R141). -/
  glyphs : Vector Byte 320
  /-- `BUS_ADDR`, the bound bus address (rule R9).  Its form is open (decision D17). -/
  busAddr : Nat
  /-- `BUS_CLOCK`, the bus clock rate (rule R9).  No rule depends on it. -/
  busClock : Nat
  deriving DecidableEq, Repr

/-- A configuration the model accepts (rule R92: one that breaks the OR constraint is refused). -/
def Build.legal (b : Build) : Bool := b.cmd.legal

/-- `HEIGHT` of a build. -/
abbrev Build.height (b : Build) : Nat := b.geom.height
/-- `PAGES` of a build. -/
abbrev Build.pages (b : Build) : Nat := b.geom.pages
/-- `FB_LEN` of a build. -/
abbrev Build.fbLen (b : Build) : Nat := b.geom.fbLen

/-- FREE VALUE.  Byte `index` of the framebuffer after reset number `epoch`: "any bytes, and a model
treats every byte as a free draw" (rule R36, decision D21).  DESIGN CHOICE of form, log 5. -/
opaque fbReset (epoch index : Nat) : Byte

/-- FREE VALUE.  The bitmaps of glyphs 1 to 40, of which the spec gives no byte (rule R141). -/
opaque glyphRom : Vector Byte 320

/-- FREE VALUE.  `BUS_ADDR` (rule R9: open). -/
opaque busAddr : Nat

/-- FREE VALUE.  `BUS_CLOCK` (rule R9: open). -/
opaque busClock : Nat

end Sys2Proof.Config
end

