-- ==== Sys2Proof/Syntax.lean ====
section
/-! DEFINITION. The instructions: one constructor for each row of spec/opcode_table.json.

The table has three formats (rule R98).  `HP` rows are the eight operations a host packet encodes.
`BC` rows are the nineteen display commands the command sequencer sends.  `BF` rows are the two
framings it sends them in.  Only the first eight are read from the command port. -/

namespace Sys2Proof

/-- An instruction.  Operands are the bytes of the encoding, unchanged (rule R84): a flag operand of
a host operation keeps all eight bits, because its reserved bits are checked by the operation. -/
inductive Instr where
  -- HP: host operations (rule R82)
  /-- INIT: bring the display up (rule R164). -/
  | init
  /-- CLEAR: zero-fill the framebuffer (rule R112). -/
  | clear
  /-- SETPIXEL `x, y, on` (rule R111). -/
  | setPixel (x y on : Byte)
  /-- DRAWLINE `x0, y0, x1, y1, on` (rule R130). -/
  | drawLine (x0 y0 x1 y1 on : Byte)
  /-- WRITESTRING `x, y, len, ch[0 .. len-1]` (rule R145).  `len` is the length of `str`. -/
  | writeString (x y : Byte) (str : List Byte)
  /-- SETWINDOW `start_col, end_col, start_page, end_page` (rule R121). -/
  | setWindow (startCol endCol startPage endPage : Byte)
  /-- RENDER (rule R165). -/
  | render
  /-- SETSCROLL `en` (rule R166). -/
  | setScroll (en : Byte)
  -- BC: display commands, with the value OR-ed in or the parameters that follow (rule R91)
  /-- `SET_DISP|on`. -/
  | cmdSetDisp (on : Bool)
  /-- `SET_MEM_MODE`, one parameter. -/
  | cmdSetMemMode (mode : Byte)
  /-- `SET_DISP_START_LINE`, bare. -/
  | cmdSetDispStartLine
  /-- `SET_SEG_REMAP|v`. -/
  | cmdSetSegRemap (v : Bool)
  /-- `SET_MUX_RATIO`, one parameter. -/
  | cmdSetMuxRatio (ratio : Byte)
  /-- `SET_COM_OUT_DIR`, bit 3 OR-ed in when `v`. -/
  | cmdSetComOutDir (v : Bool)
  /-- `SET_DISP_OFFSET`, one parameter. -/
  | cmdSetDispOffset (offset : Byte)
  /-- `SET_COM_PIN_CFG`, one parameter. -/
  | cmdSetComPinCfg (cfg : Byte)
  /-- `SET_DISP_CLK_DIV`, one parameter. -/
  | cmdSetDispClkDiv (div : Byte)
  /-- `SET_PRECHARGE`, one parameter. -/
  | cmdSetPrecharge (period : Byte)
  /-- `SET_VCOM_DESEL`, one parameter. -/
  | cmdSetVcomDesel (level : Byte)
  /-- `SET_CONTRAST`, one parameter. -/
  | cmdSetContrast (level : Byte)
  /-- `SET_ENTIRE_ON`, bare. -/
  | cmdSetEntireOn
  /-- `SET_NORM_DISP`, bare. -/
  | cmdSetNormDisp
  /-- `SET_CHARGE_PUMP`, one parameter. -/
  | cmdSetChargePump (pump : Byte)
  /-- `SET_SCROLL|en`. -/
  | cmdSetScroll (en : Bool)
  /-- `SET_COL_ADDR`, two parameters. -/
  | cmdSetColAddr (startCol endCol : Byte)
  /-- `SET_PAGE_ADDR`, two parameters. -/
  | cmdSetPageAddr (startPage endPage : Byte)
  /-- `SET_HORIZ_SCROLL|0x00`, six parameters. -/
  | cmdSetHorizScroll (p0 p1 p2 p3 p4 p5 : Byte)
  -- BF: bus framing (rules R88 and R89)
  /-- `CTRL_COMMAND`: one command transaction, the control byte `0x80` and a command byte. -/
  | ctrlCommand (c : Byte)
  /-- `CTRL_DATA`: one data transaction, the control byte `0x40` and the payload. -/
  | ctrlData (payload : List Byte)
  deriving DecidableEq, Repr

/-- The instructions a host packet encodes: the `HP` rows (rule R98: "Only the `HP` rows are decoded
by the block"). -/
def Instr.isHost : Instr → Bool
  | .init => true
  | .clear => true
  | .setPixel _ _ _ => true
  | .drawLine _ _ _ _ _ => true
  | .writeString _ _ _ => true
  | .setWindow _ _ _ _ => true
  | .render => true
  | .setScroll _ => true
  | .cmdSetDisp _ => false
  | .cmdSetMemMode _ => false
  | .cmdSetDispStartLine => false
  | .cmdSetSegRemap _ => false
  | .cmdSetMuxRatio _ => false
  | .cmdSetComOutDir _ => false
  | .cmdSetDispOffset _ => false
  | .cmdSetComPinCfg _ => false
  | .cmdSetDispClkDiv _ => false
  | .cmdSetPrecharge _ => false
  | .cmdSetVcomDesel _ => false
  | .cmdSetContrast _ => false
  | .cmdSetEntireOn => false
  | .cmdSetNormDisp => false
  | .cmdSetChargePump _ => false
  | .cmdSetScroll _ => false
  | .cmdSetColAddr _ _ => false
  | .cmdSetPageAddr _ _ => false
  | .cmdSetHorizScroll _ _ _ _ _ _ => false
  | .ctrlCommand _ => false
  | .ctrlData _ => false

/-- The two bus framings: the `BF` rows (rule R98). -/
def Instr.isFraming : Instr → Bool
  | .ctrlCommand _ => true
  | .ctrlData _ => true
  | .init => false
  | .clear => false
  | .setPixel _ _ _ => false
  | .drawLine _ _ _ _ _ => false
  | .writeString _ _ _ => false
  | .setWindow _ _ _ _ => false
  | .render => false
  | .setScroll _ => false
  | .cmdSetDisp _ => false
  | .cmdSetMemMode _ => false
  | .cmdSetDispStartLine => false
  | .cmdSetSegRemap _ => false
  | .cmdSetMuxRatio _ => false
  | .cmdSetComOutDir _ => false
  | .cmdSetDispOffset _ => false
  | .cmdSetComPinCfg _ => false
  | .cmdSetDispClkDiv _ => false
  | .cmdSetPrecharge _ => false
  | .cmdSetVcomDesel _ => false
  | .cmdSetContrast _ => false
  | .cmdSetEntireOn => false
  | .cmdSetNormDisp => false
  | .cmdSetChargePump _ => false
  | .cmdSetScroll _ => false
  | .cmdSetColAddr _ _ => false
  | .cmdSetPageAddr _ _ => false
  | .cmdSetHorizScroll _ _ _ _ _ _ => false

/-- The nineteen display commands: the `BC` rows (rules R91 and R98). -/
def Instr.isCommand (i : Instr) : Bool := !i.isHost && !i.isFraming

end Sys2Proof
end

