-- ==== Sys2Proof/WellFormed.lean ====
section
/-! DEFINITION. Which instructions have an encoding.

Every operand but two is a byte or a bit and can take every value.  The two are the string of
WRITESTRING, whose length is one byte (rule R82), and the payload of a data transaction, which is
never empty and never longer than the largest framebuffer (rules R90 and R23). -/

namespace Sys2Proof

/-- The string of WRITESTRING fits its length byte: `len` is `0 .. 255` (rule R84). -/
def strFits (str : List Byte) : Bool := str.length ≤ 255

/-- A data transaction carries `n ≥ 1` payload bytes (rule R90), at most `1024` (rule R23). -/
def payloadFits (payload : List Byte) : Bool := 1 ≤ payload.length && payload.length ≤ 1024

/-- The check, one arm per constructor. -/
def Instr.wf : Instr → Bool
  | .init => true
  | .clear => true
  | .setPixel _ _ _ => true
  | .drawLine _ _ _ _ _ => true
  | .writeString _ _ str => strFits str
  | .setWindow _ _ _ _ => true
  | .render => true
  | .setScroll _ => true
  | .cmdSetDisp _ => true
  | .cmdSetMemMode _ => true
  | .cmdSetDispStartLine => true
  | .cmdSetSegRemap _ => true
  | .cmdSetMuxRatio _ => true
  | .cmdSetComOutDir _ => true
  | .cmdSetDispOffset _ => true
  | .cmdSetComPinCfg _ => true
  | .cmdSetDispClkDiv _ => true
  | .cmdSetPrecharge _ => true
  | .cmdSetVcomDesel _ => true
  | .cmdSetContrast _ => true
  | .cmdSetEntireOn => true
  | .cmdSetNormDisp => true
  | .cmdSetChargePump _ => true
  | .cmdSetScroll _ => true
  | .cmdSetColAddr _ _ => true
  | .cmdSetPageAddr _ _ => true
  | .cmdSetHorizScroll _ _ _ _ _ _ => true
  | .ctrlCommand _ => true
  | .ctrlData payload => payloadFits payload

end Sys2Proof
end

