-- ==== Sys2Proof/Decode.lean ====
section
/-! DEFINITION. The encodings: host packets (rules R81 to R85), display commands (rules R91 to R93)
and bus framing (rules R88 to R90), read from bytes and written to bytes.

`decode` is the decoder of the block: it reads the command port.  `decodeCommand` and
`decodeFraming` read what the block sends, at a position where a command code, or a control byte, is
expected (rule R98). -/

namespace Sys2Proof

open Config

/-! ### Host packets -/

/-- The eight host operations (rule R7). -/
inductive HostOp where
  | init | clear | setPixel | drawLine | writeString | setWindow | render | setScroll
  deriving DecidableEq, Repr

/-- The `b0` column of rule R82. -/
def hostOpTable : List (Byte × HostOp) :=
  [(0x01, .init), (0x02, .clear), (0x03, .setPixel), (0x04, .drawLine), (0x05, .writeString),
   (0x06, .setWindow), (0x07, .render), (0x08, .setScroll)]

/-- The operation an opcode byte encodes; none for `0x00` and `0x09 .. 0xFF` (rule R85). -/
def hostOp? (b0 : Byte) : Option HostOp := hostOpTable.lookup b0

/-- What the packet decoder makes of the bytes it has been given, first byte first. -/
inductive Decoded where
  /-- A whole packet, and the bytes after it (rule R83). -/
  | packet (i : Instr) (rest : List Byte)
  /-- The packet is not complete: the decoder waits for its next byte. -/
  | incomplete
  /-- Byte 0 encodes no operation (rule R85(a)).  The bytes after it are not looked at. -/
  | illegalOpcode (b0 : Byte) (rest : List Byte)
  deriving DecidableEq, Repr

/-- The packet decoder (rules R82 to R85), total on any bytes.  A flag operand is kept whole: its
reserved bits are checked by the operation (rule R85(b)). -/
def decode : List Byte → Decoded
  | [] => .incomplete
  | b0 :: ops =>
    match hostOp? b0 with
    | none => .illegalOpcode b0 ops
    | some .init => .packet .init ops
    | some .clear => .packet .clear ops
    | some .setPixel =>
      match ops with
      | x :: y :: on :: rest => .packet (.setPixel x y on) rest
      | _ => .incomplete
    | some .drawLine =>
      match ops with
      | x0 :: y0 :: x1 :: y1 :: on :: rest => .packet (.drawLine x0 y0 x1 y1 on) rest
      | _ => .incomplete
    | some .writeString =>
      match ops with
      | x :: y :: len :: chars =>
        if len.toNat ≤ chars.length then
          .packet (.writeString x y (chars.take len.toNat)) (chars.drop len.toNat)
        else .incomplete
      | _ => .incomplete
    | some .setWindow =>
      match ops with
      | sc :: ec :: sp :: ep :: rest => .packet (.setWindow sc ec sp ep) rest
      | _ => .incomplete
    | some .render => .packet .render ops
    | some .setScroll =>
      match ops with
      | en :: rest => .packet (.setScroll en) rest
      | _ => .incomplete

/-! ### Display commands -/

/-- The default command codes (rule R93).  PRESUMED: the spec marks the set "from general knowledge,
not in source" (log 2). -/
def defaultCodes : CmdCodes where
  memMode := 0x20
  colAddr := 0x21
  pageAddr := 0x22
  horizScroll := 0x26
  scroll := 0x2E
  dispStartLine := 0x40
  contrast := 0x81
  chargePump := 0x8D
  segRemap := 0xA0
  entireOn := 0xA4
  normDisp := 0xA6
  muxRatio := 0xA8
  disp := 0xAE
  comOutDir := 0xC0
  dispOffset := 0xD3
  dispClkDiv := 0xD5
  precharge := 0xD9
  comPinCfg := 0xDA
  vcomDesel := 0xDB

/-- `NAME|v`: the code with a one-bit value OR-ed in at the place of `mask` (rule R92). -/
def orBit (code mask : Byte) (v : Bool) : Byte := if v then code ||| mask else code

/-- The nineteen display command names (rule R91). -/
inductive CmdName where
  | disp | memMode | dispStartLine | segRemap | muxRatio | comOutDir | dispOffset | comPinCfg
  | dispClkDiv | precharge | vcomDesel | contrast | entireOn | normDisp | chargePump | scroll
  | colAddr | pageAddr | horizScroll
  deriving DecidableEq, Repr

/-- One `BC` row of the opcode table (rule R98): `mask` clears the bits an OR-ed value may set. -/
structure CmdRow where
  name : CmdName
  mask : Byte
  code : Byte
  deriving DecidableEq, Repr

/-- The nineteen `BC` rows, for given codes. -/
def cmdRows (c : CmdCodes) : List CmdRow :=
  [⟨.disp, 0xFE, c.disp⟩, ⟨.memMode, 0xFF, c.memMode⟩, ⟨.dispStartLine, 0xFF, c.dispStartLine⟩,
   ⟨.segRemap, 0xFE, c.segRemap⟩, ⟨.muxRatio, 0xFF, c.muxRatio⟩, ⟨.comOutDir, 0xF7, c.comOutDir⟩,
   ⟨.dispOffset, 0xFF, c.dispOffset⟩, ⟨.comPinCfg, 0xFF, c.comPinCfg⟩,
   ⟨.dispClkDiv, 0xFF, c.dispClkDiv⟩, ⟨.precharge, 0xFF, c.precharge⟩,
   ⟨.vcomDesel, 0xFF, c.vcomDesel⟩, ⟨.contrast, 0xFF, c.contrast⟩, ⟨.entireOn, 0xFF, c.entireOn⟩,
   ⟨.normDisp, 0xFF, c.normDisp⟩, ⟨.chargePump, 0xFF, c.chargePump⟩, ⟨.scroll, 0xFE, c.scroll⟩] ++
  [⟨.colAddr, 0xFF, c.colAddr⟩, ⟨.pageAddr, 0xFF, c.pageAddr⟩,
   ⟨.horizScroll, 0xFF, c.horizScroll⟩]

/-- The row a byte matches, at a position where a command code is expected (rule R98). -/
def cmdRow? (c : CmdCodes) (b : Byte) : Option CmdRow :=
  (cmdRows c).find? fun r => b &&& r.mask == r.code

/-- Reads one display command, its code and its parameters, from command bytes (rule R91), and gives
the bytes after it.  None where no name has the code or parameters are missing. -/
def decodeCommand (c : CmdCodes) : List Byte → Option (Instr × List Byte)
  | [] => none
  | b :: ps =>
    match (cmdRow? c b).map CmdRow.name with
    | none => none
    | some .disp => some (.cmdSetDisp (b.getLsbD 0), ps)
    | some .memMode => match ps with | p :: r => some (.cmdSetMemMode p, r) | [] => none
    | some .dispStartLine => some (.cmdSetDispStartLine, ps)
    | some .segRemap => some (.cmdSetSegRemap (b.getLsbD 0), ps)
    | some .muxRatio => match ps with | p :: r => some (.cmdSetMuxRatio p, r) | [] => none
    | some .comOutDir => some (.cmdSetComOutDir (b.getLsbD 3), ps)
    | some .dispOffset => match ps with | p :: r => some (.cmdSetDispOffset p, r) | [] => none
    | some .comPinCfg => match ps with | p :: r => some (.cmdSetComPinCfg p, r) | [] => none
    | some .dispClkDiv => match ps with | p :: r => some (.cmdSetDispClkDiv p, r) | [] => none
    | some .precharge => match ps with | p :: r => some (.cmdSetPrecharge p, r) | [] => none
    | some .vcomDesel => match ps with | p :: r => some (.cmdSetVcomDesel p, r) | [] => none
    | some .contrast => match ps with | p :: r => some (.cmdSetContrast p, r) | [] => none
    | some .entireOn => some (.cmdSetEntireOn, ps)
    | some .normDisp => some (.cmdSetNormDisp, ps)
    | some .chargePump => match ps with | p :: r => some (.cmdSetChargePump p, r) | [] => none
    | some .scroll => some (.cmdSetScroll (b.getLsbD 0), ps)
    | some .colAddr => match ps with | p :: q :: r => some (.cmdSetColAddr p q, r) | _ => none
    | some .pageAddr => match ps with | p :: q :: r => some (.cmdSetPageAddr p q, r) | _ => none
    | some .horizScroll =>
      match ps with
      | p0 :: p1 :: p2 :: p3 :: p4 :: p5 :: r => some (.cmdSetHorizScroll p0 p1 p2 p3 p4 p5, r)
      | _ => none

/-! ### Bus framing -/

/-- The control byte of a command transaction (rule R88). -/
def ctrlCommandByte : Byte := 0x80

/-- The control byte of a data transaction (rule R89). -/
def ctrlDataByte : Byte := 0x40

/-- Reads one whole bus transaction: `[0x80, c]` or `[0x40, p0, .., p(n-1)]` with `n ≥ 1`
(rule R90).  No other list of bytes is a transaction of the block. -/
def decodeFraming : Transaction → Option Instr
  | [] => none
  | b :: ps =>
    if b = ctrlCommandByte then
      match ps with
      | [c] => some (.ctrlCommand c)
      | _ => none
    else if b = ctrlDataByte then
      match ps with
      | [] => none
      | p :: r => some (.ctrlData (p :: r))
    else none

/-! ### The encoder -/

/-- The command bytes of a display command, for given codes: the code with its OR-ed value, then the
parameters (rule R91).  Empty for an instruction that is no display command. -/
def commandBytes (c : CmdCodes) : Instr → List Byte
  | .cmdSetDisp on => [orBit c.disp 0x01 on]
  | .cmdSetMemMode p => [c.memMode, p]
  | .cmdSetDispStartLine => [c.dispStartLine]
  | .cmdSetSegRemap v => [orBit c.segRemap 0x01 v]
  | .cmdSetMuxRatio p => [c.muxRatio, p]
  | .cmdSetComOutDir v => [orBit c.comOutDir 0x08 v]
  | .cmdSetDispOffset p => [c.dispOffset, p]
  | .cmdSetComPinCfg p => [c.comPinCfg, p]
  | .cmdSetDispClkDiv p => [c.dispClkDiv, p]
  | .cmdSetPrecharge p => [c.precharge, p]
  | .cmdSetVcomDesel p => [c.vcomDesel, p]
  | .cmdSetContrast p => [c.contrast, p]
  | .cmdSetEntireOn => [c.entireOn]
  | .cmdSetNormDisp => [c.normDisp]
  | .cmdSetChargePump p => [c.chargePump, p]
  | .cmdSetScroll en => [orBit c.scroll 0x01 en]
  | .cmdSetColAddr s e => [c.colAddr, s, e]
  | .cmdSetPageAddr s e => [c.pageAddr, s, e]
  | .cmdSetHorizScroll p0 p1 p2 p3 p4 p5 => [c.horizScroll, p0, p1, p2, p3, p4, p5]
  | .init => []
  | .clear => []
  | .setPixel _ _ _ => []
  | .drawLine _ _ _ _ _ => []
  | .writeString _ _ _ => []
  | .setWindow _ _ _ _ => []
  | .render => []
  | .setScroll _ => []
  | .ctrlCommand _ => []
  | .ctrlData _ => []

/-- The bytes of an instruction: the packet of a host operation (rule R82), the command bytes of a
display command under the default codes (rules R91 and R93), the transaction of a framing
(rule R90). -/
def encode : Instr → List Byte
  | .init => [0x01]
  | .clear => [0x02]
  | .setPixel x y on => [0x03, x, y, on]
  | .drawLine x0 y0 x1 y1 on => [0x04, x0, y0, x1, y1, on]
  | .writeString x y str => 0x05 :: x :: y :: BitVec.ofNat 8 str.length :: str
  | .setWindow sc ec sp ep => [0x06, sc, ec, sp, ep]
  | .render => [0x07]
  | .setScroll en => [0x08, en]
  | .cmdSetDisp on => commandBytes defaultCodes (.cmdSetDisp on)
  | .cmdSetMemMode p => commandBytes defaultCodes (.cmdSetMemMode p)
  | .cmdSetDispStartLine => commandBytes defaultCodes .cmdSetDispStartLine
  | .cmdSetSegRemap v => commandBytes defaultCodes (.cmdSetSegRemap v)
  | .cmdSetMuxRatio p => commandBytes defaultCodes (.cmdSetMuxRatio p)
  | .cmdSetComOutDir v => commandBytes defaultCodes (.cmdSetComOutDir v)
  | .cmdSetDispOffset p => commandBytes defaultCodes (.cmdSetDispOffset p)
  | .cmdSetComPinCfg p => commandBytes defaultCodes (.cmdSetComPinCfg p)
  | .cmdSetDispClkDiv p => commandBytes defaultCodes (.cmdSetDispClkDiv p)
  | .cmdSetPrecharge p => commandBytes defaultCodes (.cmdSetPrecharge p)
  | .cmdSetVcomDesel p => commandBytes defaultCodes (.cmdSetVcomDesel p)
  | .cmdSetContrast p => commandBytes defaultCodes (.cmdSetContrast p)
  | .cmdSetEntireOn => commandBytes defaultCodes .cmdSetEntireOn
  | .cmdSetNormDisp => commandBytes defaultCodes .cmdSetNormDisp
  | .cmdSetChargePump p => commandBytes defaultCodes (.cmdSetChargePump p)
  | .cmdSetScroll en => commandBytes defaultCodes (.cmdSetScroll en)
  | .cmdSetColAddr s e => commandBytes defaultCodes (.cmdSetColAddr s e)
  | .cmdSetPageAddr s e => commandBytes defaultCodes (.cmdSetPageAddr s e)
  | .cmdSetHorizScroll p0 p1 p2 p3 p4 p5 =>
    commandBytes defaultCodes (.cmdSetHorizScroll p0 p1 p2 p3 p4 p5)
  | .ctrlCommand c => [ctrlCommandByte, c]
  | .ctrlData payload => ctrlDataByte :: payload

/-! ### Words numbered as the opcode table numbers them -/

/-- The longest instruction in bytes: a data transaction of 1024 payload bytes and its control byte
(the longest host packet has 259, rule R29). -/
def longestInstr : Nat := 1025

/-- Byte `k` of the number `w`, byte 0 the least significant, which is the first byte. -/
def byteOf (w k : Nat) : Byte := BitVec.ofNat 8 (w >>> (8 * k))

/-- The `nbits / 8` bytes of a table word, first byte first. -/
def tableBytes (nbits w : Nat) : List Byte := (List.range (nbits / 8)).map (byteOf w)

/-- A table word laid out as the hardware takes it, with zeros above it up to the longest
instruction. -/
def layOut (nbits w : Nat) : List Byte :=
  tableBytes nbits w ++ List.replicate (longestInstr - nbits / 8) 0

/-- A table word as a host packet, as the block reads it from the command port. -/
def tablePacket? (nbits w : Nat) : Option Instr :=
  match decode (layOut nbits w) with
  | .packet i _ => some i
  | .incomplete => none
  | .illegalOpcode _ _ => none

/-- A table word as a display command with the default codes. -/
def tableCommand? (nbits w : Nat) : Option Instr :=
  (decodeCommand defaultCodes (layOut nbits w)).map Prod.fst

/-- A table word as a transaction of at least two bytes. -/
def tableFraming? (nbits w : Nat) : Option Instr :=
  decodeFraming ((layOut nbits w).take (max 2 (nbits / 8)))

/-- The readings of a table word.  A host packet comes first, as in the block.  A display command
comes before a framing: a DESIGN CHOICE (log 26) that matters for the byte `0x40` only, which is the
default code of SET_DISP_START_LINE and the control byte of a data transaction. -/
def tableReadings (nbits w : Nat) : List Instr :=
  (tablePacket? nbits w).toList ++ (tableCommand? nbits w).toList ++ (tableFraming? nbits w).toList

/-- The instruction the decoders read from a table word of `nbits` bits (all its bits above `nbits`
zero): the first reading that is not shorter than the word. -/
def decodeTableWord (nbits w : Nat) : Option Instr :=
  (tableReadings nbits w).find? fun i => nbits / 8 ≤ (encode i).length

end Sys2Proof
end

