-- ==== Sys2Proof/Machine/State.lean ====
section
/-! DEFINITION. The state of the machine as plain data, the reasons a step can stop, and the state
after reset (rules R20 to R36). -/

namespace Sys2Proof.Machine

open Config

/-- The framebuffer as cells (flat index, byte).  Canonical form (`Memory.wf` in Ops): the indices
are exactly `0 .. FB_LEN-1`, in rising order (rules R21 and R58).  An index that is not listed does
not exist and reads as no value (log 5). -/
abbrev Memory := List Host.Cell

/-- `DC_STATE` (rule R22): "States: `Uninitialized → Ready`. No further states". -/
inductive DcState where
  | uninitialized
  | ready
  deriving DecidableEq, Repr

/-- The window registers `WIN` (rule R23). -/
structure Window where
  startCol : Byte
  endCol : Byte
  startPage : Byte
  endPage : Byte
  /-- The derived length, 11 bits. -/
  buflen : BitVec 11
  deriving DecidableEq, Repr

/-- The causes of a contract violation (rule R195). -/
inductive Cause where
  | pixelRange | windowInvalid | notReady | alreadyReady | illegalOpcode | illegalOperand
  deriving DecidableEq, Repr

/-- All the state of the block, its build parameters, and its inputs. -/
structure State where
  /-- The build parameters (rule R31): constants, written by no step (log 1). -/
  cfg : Build
  /-- MODEL's own: the number of resets since power-on, the index of the free draws of `FB`
  (log 6). -/
  epoch : Nat
  /-- The framebuffer `FB` (rule R21). -/
  fb : Memory
  /-- `DC_STATE` (rule R22). -/
  dcState : DcState
  /-- `WIN` (rule R23). -/
  win : Window
  /-- `HALT`, the sticky latch of a contract violation (rule R24). -/
  halt : Bool
  /-- `CAUSE` (rules R24 and R195). -/
  cause : Byte
  /-- `FINFO0` (rules R24 and R196). -/
  finfo0 : Byte
  /-- `FINFO1` (rules R24 and R196). -/
  finfo1 : Byte
  /-- `BUSY` (rule R25). -/
  busy : Bool
  /-- `TERR`, the sticky transport error (rule R26). -/
  terr : Bool
  /-- The operand latches while a packet is being taken: the bytes taken so far, `OP` first
  (rule R27).  Its length is `PKT_POS` (rule R28). -/
  pkt : List Byte
  /-- The operation in progress, with its operands: the operand latches once the packet is whole
  (rule R27).  None between operations (log 13). -/
  cur : Option Instr
  /-- `SEQ_IDX` of the operation in progress: how many of its transactions have been answered
  (rule R28). -/
  seqIdx : Nat
  /-- A transaction is in flight: emitted and not answered (rule R34(a)). -/
  waiting : Bool
  /-- `BUS_TRACE`, every transaction emitted since reset, oldest first (rule R33). -/
  trace : List Transaction
  /-- Input: the reset port `rst` (rule R32).  One step with it high is one reset (log 9). -/
  rst : Bool
  /-- Input: the bytes the host offers on `cmd_byte`, next first; `cmd_valid` is that there is one
  (rule R32, log 8). -/
  cmdIn : List Byte
  /-- Input: the answers `done(ok)` the bus agent has ready, next first (rule R169, log 7).  Empty
  means that the bus does not answer, for now or for ever. -/
  busIn : List Bool
  deriving DecidableEq, Repr

/-- Why a step is no step of the machine. -/
inductive Fault where
  /-- Raised by `step` when `HALT = 1` and no reset is asserted: "the block is dead to commands"
  (rule R208), and a run that is there "is over in a failed state" (rule R234).  Safe. -/
  | halted
  /-- Raised by `step` when a transaction is in flight and the bus agent has no answer: "the
  controller has no step until the bus agent answers" (rule R169, U9).  Safe. -/
  | busStalled
  /-- Raised by a framebuffer access to an index that does not exist.  "An access outside the range
  cannot be produced through the host port" (rule R52): only unreachable states meet it.  Safe. -/
  | fbHole
  /-- Raised by the line walk if it outlives its step bound.  It never does (rule R133).  Safe. -/
  | lineFuel
  deriving DecidableEq, Repr

/-- Why the model gives a state no meaning. -/
inductive Refusal where
  /-- Raised by an arm of `exec` that has no meaning yet.  No arm is left so.  Safe. -/
  | notModelled (mnemonic : String)
  /-- Raised by `step` when the command codes break rule R92: "A configuration of `CMD_*` that breaks
  this is refused by the model".  Safe. -/
  | illegalConfig
  deriving DecidableEq, Repr

/-- `FB` after reset number `epoch`: all `FB_LEN` bytes are there, each a free draw (rule R36). -/
def freshFb (cfg : Build) (epoch : Nat) : Memory :=
  (List.range cfg.fbLen).map fun a => (a, fbReset epoch a)

/-- The full-screen window (rule R36). -/
def Window.full (cfg : Build) : Window where
  startCol := 0
  endCol := BitVec.ofNat 8 (width - 1)
  startPage := 0
  endPage := BitVec.ofNat 8 (cfg.pages - 1)
  buflen := BitVec.ofNat 11 cfg.fbLen

/-- Every piece of state at its reset value (rules R36 and R220), for a build, a reset number, and
what the host and the bus agent have ready. -/
def State.afterReset (cfg : Build) (epoch : Nat) (cmdIn : List Byte) (busIn : List Bool) : State where
  cfg := cfg
  epoch := epoch
  fb := freshFb cfg epoch
  dcState := .uninitialized
  win := Window.full cfg
  halt := false
  cause := 0
  finfo0 := 0
  finfo1 := 0
  busy := false
  terr := false
  pkt := []
  cur := none
  seqIdx := 0
  waiting := false
  trace := []
  rst := false
  cmdIn := cmdIn
  busIn := busIn

/-- The build of `State.reset`: the default geometry (rule R8), the default command codes (rule R93,
PRESUMED, log 2), and free values for what is open (rules R9 and R141). -/
def defaultBuild : Build where
  geom := .g128x64
  cmd := defaultCodes
  glyphs := glyphRom
  busAddr := Config.busAddr
  busClock := Config.busClock

/-- The machine right after reset (rule R36), with nothing offered and no answer ready. -/
def State.reset : State := State.afterReset defaultBuild 0 [] []

end Sys2Proof.Machine
end

