-- ==== Sys2Proof/Machine/Flags.lean ====
section
/-! DEFINITION. The flags and the ports that show them (rules R25, R26, R30 and R32), and the cause
codes (rule R195).  No operation computes a condition code (rule R30). -/

namespace Sys2Proof.Machine

/-- The code of a cause in `CAUSE` (rule R195). -/
def Cause.code : Cause → Byte
  | .pixelRange => 0x01
  | .windowInvalid => 0x02
  | .notReady => 0x03
  | .alreadyReady => 0x04
  | .illegalOpcode => 0x05
  | .illegalOperand => 0x06

/-- A flag as the bit at place `k` of a byte. -/
def flagAt (k : Nat) (b : Bool) : Byte := if b then 1#8 <<< k else 0#8

/-- `STATUS` (rule R30): bit 0 `READY`, bit 1 `BUSY`, bit 2 `HALT`, bit 3 `TERR`, bits 7:4 zero. -/
def State.status (s : State) : Byte :=
  flagAt 0 (s.dcState == .ready) ||| flagAt 1 s.busy ||| flagAt 2 s.halt ||| flagAt 3 s.terr

/-- `PKT_POS`: how many bytes of the current packet have been taken (rule R28). -/
def State.pktPos (s : State) : Nat := s.pkt.length

/-- `cmd_valid`: the host offers a byte (rule R32). -/
def State.cmdValid (s : State) : Bool := !s.cmdIn.isEmpty

/-- `cmd_ready` (rule R32): low while an operation executes and while `HALT = 1`.  It is low while `rst`
is asserted too: rules R32 and R220 do not say so, but a byte is transferred whenever `cmd_valid` and
`cmd_ready` are both 1, and the reset step takes none (DESIGN CHOICE, log 27). -/
def State.cmdReady (s : State) : Bool := s.cur.isNone && !s.halt && !s.rst

/-- `TERR` after an answer `done(ok)`: set when `ok = 0`, else as it was (rule R170). -/
def terrAfter (terr ok : Bool) : Bool := terr || !ok

/-- The bus writes as the bus sees them: every transaction goes to `BUS_ADDR` (rules R33 and R97). -/
def State.busWrites (s : State) : List (Nat × Transaction) := s.trace.map fun t => (s.cfg.busAddr, t)

end Sys2Proof.Machine
end

