-- ==== Sys2Proof/Machine/Operands.lean ====
section
/-! DEFINITION. The operand forms (rules R84 and R143), the addressing functions of the framebuffer
(rule R51), the window functions (rules R120 and R122) and the character mapping (rule R142). -/

namespace Sys2Proof.Machine

open Config

/-! ### Operand bytes -/

/-- A coordinate, a window bound or a length: `zext(byte)`, `0 .. 255` (rule R84). -/
abbrev coord (b : Byte) : Nat := b.toNat

/-- A flag operand whose reserved bits 7:1 are zero (rule R85(b)): it is `0x00` or `0x01`. -/
def flagLegal (b : Byte) : Bool := b &&& 0xFE == 0

/-- The flag: bit 0 (rule R84). -/
def flagBit (b : Byte) : Bool := b.getLsbD 0

/-- `sign(v)`: `-1`, `0` or `+1` (rule R11). -/
def sign (v : Int) : Int := if v < 0 then -1 else if v = 0 then 0 else 1

/-! ### Framebuffer addressing -/

/-- `PageOf(y) = y / 8` (rule R51). -/
def pageOf (y : Nat) : Nat := y / 8

/-- `FlatIndex(p, c) = p × WIDTH + c` (rule R51). -/
def flatIndex (page col : Nat) : Nat := page * width + col

/-- `ByteIndex(x, y) = (y / 8) × WIDTH + x` (rule R51). -/
def byteIndex (x y : Nat) : Nat := flatIndex (pageOf y) x

/-- `BitMask(y) = 1 << (y % 8)` (rule R51). -/
def bitMask (y : Nat) : Byte := 1#8 <<< (y % 8)

/-! ### The window -/

/-- `ComputeLength(sc, ec, sp, ep) = (ec - sc + 1) × (ep - sp + 1)` (rule R120), over the integers. -/
def computeLength (sc ec sp ep : Byte) : Int :=
  ((ec.toNat : Int) - sc.toNat + 1) * ((ep.toNat : Int) - sp.toNat + 1)

/-- The bounds invariant of rule R23:
`start_col ≤ end_col < WIDTH` and `start_page ≤ end_page < PAGES`. -/
def boundsLegal (cfg : Build) (sc ec sp ep : Byte) : Bool :=
  sc.toNat ≤ ec.toNat && ec.toNat < width && sp.toNat ≤ ep.toNat && ep.toNat < cfg.pages

/-- The window that SETWINDOW loads: the bounds and the length derived from them (rule R121). -/
def Window.ofBounds (sc ec sp ep : Byte) : Window where
  startCol := sc
  endCol := ec
  startPage := sp
  endPage := ep
  buflen := BitVec.ofInt 11 (computeLength sc ec sp ep)

/-- `WindowOffset() = WIN.start_page × WIDTH + WIN.start_col` (rule R122). -/
def Window.offset (w : Window) : Nat := flatIndex w.startPage.toNat w.startCol.toNat

/-! ### Characters -/

/-- `Upper(ch)`: codes `0x61 .. 0x7A` lose `0x20`, every other code stays (rule R143).
PRESUMED: the codes are ASCII, which the spec marks as general knowledge (log 20). -/
def upper (ch : Byte) : Byte := if 0x61 ≤ ch.toNat ∧ ch.toNat ≤ 0x7A then ch - 0x20 else ch

/-- The glyph of a character code that is already upper case (rule R142). -/
def glyphOfUpper (u : Byte) : Fin 41 :=
  if h : 0x41 ≤ u.toNat ∧ u.toNat ≤ 0x5A then ⟨u.toNat - 0x41 + 1, by omega⟩
  else if h : 0x30 ≤ u.toNat ∧ u.toNat ≤ 0x39 then ⟨u.toNat - 0x30 + 27, by omega⟩
  else if u = 0x3D then 37
  else if u = 0x2C then 38
  else if u = 0x25 then 39
  else if u = 0x2E then 40
  else 0

/-- `CharToGlyphIndex(ch)` (rule R142): total, `0 .. 40`. -/
def charToGlyphIndex (ch : Byte) : Fin 41 := glyphOfUpper (upper ch)

/-- `GLYPH[g][i]`: glyph 0 is blank (rule R141), glyph `g` is at `g × 8` (rule R53). -/
def glyphByte (cfg : Build) (g : Fin 41) (i : Fin 8) : Byte :=
  if h : g.val = 0 then 0 else cfg.glyphs[(g.val - 1) * 8 + i.val]'(by omega)

end Sys2Proof.Machine
end

