-- ==== Sys2Proof/Machine/Ops.lean ====
section
/-! DEFINITION. The named operations the meanings are made of: framebuffer access, the end of an
operation, taking a fault (rule R194), reset (rule R220), and the bus (rules R13, R160 to R162, R169
and R170). -/

namespace Sys2Proof.Machine

open Config

/-! ### Cells -/

/-- The byte at an index; none where the index does not exist. -/
def Memory.read : Memory → Nat → Option Byte
  | [], _ => none
  | (k, b) :: m, a => if a = k then some b else Memory.read m a

/-- Stores a byte at an index and keeps the indices in rising order. -/
def Memory.write : Memory → Nat → Byte → Memory
  | [], a, b => [(a, b)]
  | (k, c) :: m, a, b =>
    if a < k then (a, b) :: (k, c) :: m
    else if a = k then (a, b) :: m
    else (k, c) :: Memory.write m a b

/-- `n` consecutive bytes from index `a`, in ascending order (rule R57); none if one of them does not
exist.  One walk along the rising cells; it gives what `n` reads give (`Memory.slice_eq_reads`). -/
def Memory.slice : Memory → Nat → Nat → Option (List Byte)
  | _, _, 0 => some []
  | [], _, _ + 1 => none
  | (k, b) :: m, a, n + 1 =>
    if k = a then (Memory.slice m (a + 1) n).map (b :: ·) else Memory.slice m a (n + 1)

/-- `n` bytes, all zero. -/
def Memory.zeros (n : Nat) : Memory := (List.range n).map fun a => (a, 0x00)

/-- The canonical form: exactly the indices `0 .. n-1`, each once, rising (rules R21 and R58). -/
def Memory.wf (n : Nat) (m : Memory) : Bool := m.map Prod.fst == List.range n

/-! ### One register or flag at a time -/

/-- `FB` replaced. -/
def State.setFb (s : State) (m : Memory) : State := { s with fb := m }

/-- The five window registers loaded together (rule R121). -/
def State.setWin (s : State) (w : Window) : State := { s with win := w }

/-- `DC_STATE <- Ready` (rule R164). -/
def State.setReady (s : State) : State := { s with dcState := .ready }

/-- The end of an operation: `BUSY <- 0` (rules R14 and R25).  The latches and the sequencing state
of the operation are gone (rules R27 and R28). -/
def State.endOp (s : State) : State :=
  { s with busy := false, cur := none, seqIdx := 0, waiting := false }

/-! ### Taking a fault, and the only way back -/

/-- The state after fault entry: `HALT`, `CAUSE`, `FINFO0`, `FINFO1` are latched and the operation
ends (rule R194).  Nothing else changes. -/
def State.faulted (s : State) (c : Cause) (a b : Byte) : State :=
  { s.endOp with halt := true, cause := c.code, finfo0 := a, finfo1 := b }

/-- `raise <Cause>(a, b)` (rules R14 and R194). -/
def raise (c : Cause) (a b : Byte) (s : State) : Host.Outcome State Fault Refusal :=
  .next (s.faulted c a b)

/-- Reset (rule R220), the only way out of `HALT = 1` and of a bus stall (rule R198): everything at
its reset value, `FB` drawn anew, the operation in progress abandoned.  The build stays (rule R36);
what the host and the bus agent have ready is theirs and stays (log 9). -/
def State.resetNow (s : State) : State :=
  State.afterReset s.cfg (s.epoch + 1) s.cmdIn s.busIn

/-! ### How a part of an operation goes on -/

/-- The pseudocode of an operation either goes on from a state or has ended with an outcome (a fault
taken, rule R14, or a fault of the model). -/
inductive Flow where
  | go (s : State)
  | stop (o : Host.Outcome State Fault Refusal)

/-- What comes next in the pseudocode; not run once the operation has ended (rule R14). -/
def Flow.andThen : Flow → (State → Flow) → Flow
  | .go s, f => f s
  | .stop o, _ => .stop o

/-- The end of the pseudocode: the operation ends normally (rule R14). -/
def Flow.finish : Flow → Host.Outcome State Fault Refusal
  | .go s => .next s.endOp
  | .stop o => o

/-! ### Framebuffer access -/

/-- `FB[a]` (rule R12). -/
def State.fbRead (s : State) (a : Nat) : Option Byte := s.fb.read a

/-- `FB[a] <- b` (rule R12).  An index outside `0 .. FB_LEN-1` does not exist (rule R21). -/
def fbWrite (a : Nat) (b : Byte) (s : State) : Flow :=
  if a < s.cfg.fbLen then .go (s.setFb (s.fb.write a b)) else .stop (.fault .fbHole)

/-! ### The bus -/

/-- The transaction of `SendCmd(c)` (rules R88 and R160). -/
def cmdTransaction (c : Byte) : Transaction := [ctrlCommandByte, c]

/-- The transactions of `SendCmdList(l)`, one per byte, in list order (rules R90 and R161). -/
def cmdTransactions (l : List Byte) : List Transaction := l.map cmdTransaction

/-- The transaction of `SendData(p)` (rules R89 and R162). -/
def dataTransaction (p : List Byte) : Transaction := ctrlDataByte :: p

/-- `Emit(t)` up to the wait: the transaction is in `BUS_TRACE` and in flight (rules R13 and R169). -/
def State.emit (s : State) (t : Transaction) : State :=
  { s with trace := s.trace ++ [t], waiting := true }

/-- The bus agent's answer `done(ok)` to the transaction in flight; `rest` are its later answers
(rules R169 and R170). -/
def State.answered (s : State) (ok : Bool) (rest : List Bool) : State :=
  { s with busIn := rest, waiting := false, terr := terrAfter s.terr ok, seqIdx := s.seqIdx + 1 }

/-- The controller waits for an answer in the middle of operation `i`: `BUSY` stays 1 (rule R169). -/
def State.waitIn (s : State) (i : Instr) : State := { s with cur := some i, busy := true }

/-- Emits transactions in order, each after the answer to the one before (rules R161 and R169).  When
the bus agent has no answer the operation `i` is left waiting; when all are answered, `done` gives
the end state of the operation. -/
def sendAll (i : Instr) (done : State → State) :
    List Transaction → State → Host.Outcome State Fault Refusal
  | [], s => .next (done s).endOp
  | t :: ts, s =>
    match s.busIn with
    | [] => .next ((s.emit t).waitIn i)
    | ok :: rest => sendAll i done ts ((s.emit t).answered ok rest)

/-- The state once transactions `ts` are all sent and answered, before the operation ends: they are in
`BUS_TRACE` in order, their answers are used up, and `TERR` is set if one of them was `ok = 0`
(rules R161 and R170). -/
def State.sent (s : State) (ts : List Transaction) : State :=
  { s with
    trace := s.trace ++ ts
    busIn := s.busIn.drop ts.length
    terr := s.terr || (s.busIn.take ts.length).any (!·) }

/-- `SEQ_IDX` at the start of a sequence (rule R28). -/
def State.seqStart (s : State) : State := { s with seqIdx := 0 }

end Sys2Proof.Machine
end

