-- ==== Sys2Proof/Machine/Sequencer.lean ====
section
/-! DEFINITION. The sequence tables (rules R94 to R96 and R67) and what each instruction sends: its
list of bus transactions. -/

namespace Sys2Proof.Machine

open Config

/-- `MUX_RATIO = HEIGHT - 1` (rule R8). -/
def muxRatio (cfg : Build) : Byte := BitVec.ofNat 8 (cfg.height - 1)

/-- `COM_PIN_CFG` (rule R8). -/
def comPinCfg (cfg : Build) : Byte :=
  match cfg.geom with
  | .g128x64 => 0x12
  | .g128x32 => 0x02

/-- `INIT_SEQ[0 .. 25]` (rule R94). -/
def initSeq (cfg : Build) : List Byte :=
  [cfg.cmd.disp ||| 0x00,
   cfg.cmd.memMode, 0x00,
   cfg.cmd.dispStartLine,
   cfg.cmd.segRemap ||| 0x01,
   cfg.cmd.muxRatio, muxRatio cfg,
   cfg.cmd.comOutDir ||| 0x08,
   cfg.cmd.dispOffset, 0x00,
   cfg.cmd.comPinCfg, comPinCfg cfg,
   cfg.cmd.dispClkDiv, 0x80,
   cfg.cmd.precharge, 0xF1,
   cfg.cmd.vcomDesel, 0x30,
   cfg.cmd.contrast, 0xFF,
   cfg.cmd.entireOn,
   cfg.cmd.normDisp,
   cfg.cmd.chargePump, 0x14,
   cfg.cmd.scroll ||| 0x00,
   cfg.cmd.disp ||| 0x01]

/-- `SCROLL_SEQ[0 .. 6]` (rule R96). -/
def scrollSeq (cfg : Build) : List Byte :=
  [cfg.cmd.horizScroll ||| 0x00, 0x00, 0x00, 0x00, 0x03, 0x00, 0xFF]

/-- The last byte of the scroll command, `CMD_SET_SCROLL | en[0]` (rule R166). -/
def scrollLast (cfg : Build) (en : Byte) : Byte :=
  cfg.cmd.scroll ||| (if flagBit en then 0x01 else 0x00)

/-- The six addressing bytes of RENDER (rule R95). -/
def addressBytes (cfg : Build) (w : Window) : List Byte :=
  [cfg.cmd.colAddr, w.startCol, w.endCol, cfg.cmd.pageAddr, w.startPage, w.endPage]

/-- What INIT sends (rule R164). -/
def initTransactions (cfg : Build) : List Transaction := cmdTransactions (initSeq cfg)

/-- What SETSCROLL sends (rule R166). -/
def scrollTransactions (cfg : Build) (en : Byte) : List Transaction :=
  cmdTransactions (scrollSeq cfg ++ [scrollLast cfg en])

/-- The payload of RENDER: the contiguous run of `WIN.buflen` bytes from `WindowOffset()`
(rules R165 and R167). -/
def renderPayload (s : State) : Option (List Byte) := s.fb.slice s.win.offset s.win.buflen.toNat

/-- What RENDER sends (rule R165).  None if a byte of the slice does not exist, which no reachable
state meets (rule R123). -/
def renderTransactions (s : State) : Option (List Transaction) :=
  (renderPayload s).map fun p =>
    cmdTransactions (addressBytes s.cfg s.win) ++ [dataTransaction p]

/-- What an instruction sends on the bus, in order (rules R164 to R166 for the host operations, R91
for the display commands, R160 and R162 for the framings). -/
def transactions (s : State) : Instr → Option (List Transaction)
  | .init => some (initTransactions s.cfg)
  | .clear => some []
  | .setPixel _ _ _ => some []
  | .drawLine _ _ _ _ _ => some []
  | .writeString _ _ _ => some []
  | .setWindow _ _ _ _ => some []
  | .render => renderTransactions s
  | .setScroll en => some (scrollTransactions s.cfg en)
  | .cmdSetDisp on => some (cmdTransactions (commandBytes s.cfg.cmd (.cmdSetDisp on)))
  | .cmdSetMemMode p => some (cmdTransactions (commandBytes s.cfg.cmd (.cmdSetMemMode p)))
  | .cmdSetDispStartLine => some (cmdTransactions (commandBytes s.cfg.cmd .cmdSetDispStartLine))
  | .cmdSetSegRemap v => some (cmdTransactions (commandBytes s.cfg.cmd (.cmdSetSegRemap v)))
  | .cmdSetMuxRatio p => some (cmdTransactions (commandBytes s.cfg.cmd (.cmdSetMuxRatio p)))
  | .cmdSetComOutDir v => some (cmdTransactions (commandBytes s.cfg.cmd (.cmdSetComOutDir v)))
  | .cmdSetDispOffset p => some (cmdTransactions (commandBytes s.cfg.cmd (.cmdSetDispOffset p)))
  | .cmdSetComPinCfg p => some (cmdTransactions (commandBytes s.cfg.cmd (.cmdSetComPinCfg p)))
  | .cmdSetDispClkDiv p => some (cmdTransactions (commandBytes s.cfg.cmd (.cmdSetDispClkDiv p)))
  | .cmdSetPrecharge p => some (cmdTransactions (commandBytes s.cfg.cmd (.cmdSetPrecharge p)))
  | .cmdSetVcomDesel p => some (cmdTransactions (commandBytes s.cfg.cmd (.cmdSetVcomDesel p)))
  | .cmdSetContrast p => some (cmdTransactions (commandBytes s.cfg.cmd (.cmdSetContrast p)))
  | .cmdSetEntireOn => some (cmdTransactions (commandBytes s.cfg.cmd .cmdSetEntireOn))
  | .cmdSetNormDisp => some (cmdTransactions (commandBytes s.cfg.cmd .cmdSetNormDisp))
  | .cmdSetChargePump p => some (cmdTransactions (commandBytes s.cfg.cmd (.cmdSetChargePump p)))
  | .cmdSetScroll en => some (cmdTransactions (commandBytes s.cfg.cmd (.cmdSetScroll en)))
  | .cmdSetColAddr a b => some (cmdTransactions (commandBytes s.cfg.cmd (.cmdSetColAddr a b)))
  | .cmdSetPageAddr a b => some (cmdTransactions (commandBytes s.cfg.cmd (.cmdSetPageAddr a b)))
  | .cmdSetHorizScroll a b c d e f =>
    some (cmdTransactions (commandBytes s.cfg.cmd (.cmdSetHorizScroll a b c d e f)))
  | .ctrlCommand c => some [cmdTransaction c]
  | .ctrlData p => some [dataTransaction p]

/-- The end state of an operation once all it sends is answered: INIT, and INIT alone, sets
`DC_STATE` (rules R163 and R164). -/
def afterLast : Instr → State → State
  | .init => State.setReady
  | .clear => id
  | .setPixel _ _ _ => id
  | .drawLine _ _ _ _ _ => id
  | .writeString _ _ _ => id
  | .setWindow _ _ _ _ => id
  | .render => id
  | .setScroll _ => id
  | .cmdSetDisp _ => id
  | .cmdSetMemMode _ => id
  | .cmdSetDispStartLine => id
  | .cmdSetSegRemap _ => id
  | .cmdSetMuxRatio _ => id
  | .cmdSetComOutDir _ => id
  | .cmdSetDispOffset _ => id
  | .cmdSetComPinCfg _ => id
  | .cmdSetDispClkDiv _ => id
  | .cmdSetPrecharge _ => id
  | .cmdSetVcomDesel _ => id
  | .cmdSetContrast _ => id
  | .cmdSetEntireOn => id
  | .cmdSetNormDisp => id
  | .cmdSetChargePump _ => id
  | .cmdSetScroll _ => id
  | .cmdSetColAddr _ _ => id
  | .cmdSetPageAddr _ _ => id
  | .cmdSetHorizScroll _ _ _ _ _ _ => id
  | .ctrlCommand _ => id
  | .ctrlData _ => id

/-- Sends what an instruction sends, from the first transaction on. -/
def sendStart (i : Instr) (s : State) : Host.Outcome State Fault Refusal :=
  match transactions s i with
  | none => .fault .fbHole
  | some ts => sendAll i (afterLast i) ts s.seqStart

/-- Goes on with an operation whose transaction in flight is answered (rule R169): what it has still
to send.  `FB`, `WIN` and the build are what they were when it started (rule R66). -/
def sendResume (i : Instr) (s : State) : Host.Outcome State Fault Refusal :=
  match transactions s i with
  | none => .fault .fbHole
  | some ts => sendAll i (afterLast i) (ts.drop s.seqIdx) s

end Sys2Proof.Machine
end

