-- ==== Sys2Proof/Machine/Bus.lean ====
section
/-! DEFINITION. The display commands (`BC` rows, rule R91) and the bus framings (`BF` rows, rules R88
to R90), as the command sequencer sends them.  What a command does inside the display is outside the
block (rule R5): its effect here is the transactions it adds to `BUS_TRACE`.  The command port never
decodes one (rule R98, log 15). -/

namespace Sys2Proof.Machine

/-- `SET_DISP|on` (rules R91 and R161). -/
def execCmdSetDisp (on : Bool) (s : State) : Host.Outcome State Fault Refusal :=
  sendStart (.cmdSetDisp on) s

/-- `SET_MEM_MODE`, one parameter (rules R91 and R161). -/
def execCmdSetMemMode (p : Byte) (s : State) : Host.Outcome State Fault Refusal :=
  sendStart (.cmdSetMemMode p) s

/-- `SET_DISP_START_LINE`, bare (rules R91 and R161). -/
def execCmdSetDispStartLine (s : State) : Host.Outcome State Fault Refusal :=
  sendStart .cmdSetDispStartLine s

/-- `SET_SEG_REMAP|v` (rules R91 and R161). -/
def execCmdSetSegRemap (v : Bool) (s : State) : Host.Outcome State Fault Refusal :=
  sendStart (.cmdSetSegRemap v) s

/-- `SET_MUX_RATIO`, one parameter (rules R91 and R161). -/
def execCmdSetMuxRatio (p : Byte) (s : State) : Host.Outcome State Fault Refusal :=
  sendStart (.cmdSetMuxRatio p) s

/-- `SET_COM_OUT_DIR|v`, bit 3 (rules R91 and R161). -/
def execCmdSetComOutDir (v : Bool) (s : State) : Host.Outcome State Fault Refusal :=
  sendStart (.cmdSetComOutDir v) s

/-- `SET_DISP_OFFSET`, one parameter (rules R91 and R161). -/
def execCmdSetDispOffset (p : Byte) (s : State) : Host.Outcome State Fault Refusal :=
  sendStart (.cmdSetDispOffset p) s

/-- `SET_COM_PIN_CFG`, one parameter (rules R91 and R161). -/
def execCmdSetComPinCfg (p : Byte) (s : State) : Host.Outcome State Fault Refusal :=
  sendStart (.cmdSetComPinCfg p) s

/-- `SET_DISP_CLK_DIV`, one parameter (rules R91 and R161). -/
def execCmdSetDispClkDiv (p : Byte) (s : State) : Host.Outcome State Fault Refusal :=
  sendStart (.cmdSetDispClkDiv p) s

/-- `SET_PRECHARGE`, one parameter (rules R91 and R161). -/
def execCmdSetPrecharge (p : Byte) (s : State) : Host.Outcome State Fault Refusal :=
  sendStart (.cmdSetPrecharge p) s

/-- `SET_VCOM_DESEL`, one parameter (rules R91 and R161). -/
def execCmdSetVcomDesel (p : Byte) (s : State) : Host.Outcome State Fault Refusal :=
  sendStart (.cmdSetVcomDesel p) s

/-- `SET_CONTRAST`, one parameter (rules R91 and R161). -/
def execCmdSetContrast (p : Byte) (s : State) : Host.Outcome State Fault Refusal :=
  sendStart (.cmdSetContrast p) s

/-- `SET_ENTIRE_ON`, bare (rules R91 and R161). -/
def execCmdSetEntireOn (s : State) : Host.Outcome State Fault Refusal :=
  sendStart .cmdSetEntireOn s

/-- `SET_NORM_DISP`, bare (rules R91 and R161). -/
def execCmdSetNormDisp (s : State) : Host.Outcome State Fault Refusal :=
  sendStart .cmdSetNormDisp s

/-- `SET_CHARGE_PUMP`, one parameter (rules R91 and R161). -/
def execCmdSetChargePump (p : Byte) (s : State) : Host.Outcome State Fault Refusal :=
  sendStart (.cmdSetChargePump p) s

/-- `SET_SCROLL|en` (rules R91 and R161). -/
def execCmdSetScroll (en : Bool) (s : State) : Host.Outcome State Fault Refusal :=
  sendStart (.cmdSetScroll en) s

/-- `SET_COL_ADDR`, two parameters (rules R91 and R161). -/
def execCmdSetColAddr (startCol endCol : Byte) (s : State) : Host.Outcome State Fault Refusal :=
  sendStart (.cmdSetColAddr startCol endCol) s

/-- `SET_PAGE_ADDR`, two parameters (rules R91 and R161). -/
def execCmdSetPageAddr (startPage endPage : Byte) (s : State) : Host.Outcome State Fault Refusal :=
  sendStart (.cmdSetPageAddr startPage endPage) s

/-- `SET_HORIZ_SCROLL|0x00`, six parameters (rules R91 and R161). -/
def execCmdSetHorizScroll (p0 p1 p2 p3 p4 p5 : Byte) (s : State) : Host.Outcome State Fault Refusal :=
  sendStart (.cmdSetHorizScroll p0 p1 p2 p3 p4 p5) s

/-- `CTRL_COMMAND`: one command transaction, `SendCmd(c)` (rules R88 and R160). -/
def execCtrlCommand (c : Byte) (s : State) : Host.Outcome State Fault Refusal :=
  sendStart (.ctrlCommand c) s

/-- `CTRL_DATA`: one data transaction, `SendData(p)` (rules R89 and R162). -/
def execCtrlData (payload : List Byte) (s : State) : Host.Outcome State Fault Refusal :=
  sendStart (.ctrlData payload) s

end Sys2Proof.Machine
end

