-- ==== Sys2Proof/Machine/Display.lean ====
section
/-! DEFINITION. The display operations (`display_command_sequencer`, spec/44_display.md): INIT,
RENDER, SETSCROLL. -/

namespace Sys2Proof.Machine

/-- INIT (rule R164): a fault in `Ready`; else the bring-up list, then `Ready`. -/
def execInit (s : State) : Host.Outcome State Fault Refusal :=
  match s.dcState with
  | .ready => raise .alreadyReady 0x00 0x00 s
  | .uninitialized => sendStart .init s

/-- RENDER (rule R165): a fault in `Uninitialized`; else the six addressing bytes, then the
payload. -/
def execRender (s : State) : Host.Outcome State Fault Refusal :=
  match s.dcState with
  | .uninitialized => raise .notReady 0x00 0x00 s
  | .ready => sendStart .render s

/-- SETSCROLL (rule R166): the flag check, then eight bytes, whatever the flag says. -/
def execSetScroll (en : Byte) (s : State) : Host.Outcome State Fault Refusal :=
  if flagLegal en then sendStart (.setScroll en) s else raise .illegalOperand 0x08 en s

end Sys2Proof.Machine
end

