-- ==== Sys2Proof/Machine/Pixel.lean ====
section
/-! DEFINITION. The pixel operations (`bit_packed_pixel_mux`, spec/40_pixel.md): the primitive
`SetPixel`, CLEAR and SETPIXEL. -/

namespace Sys2Proof.Machine

open Config

/-- One byte of the framebuffer with one pixel set or cleared: OR with the mask, or AND with its
complement (rule R110). -/
def pixelByte (b mask : Byte) (on : Bool) : Byte := if on then b ||| mask else b &&& ~~~mask

/-- The range check of `SetPixel` (rule R110). -/
def inRange (cfg : Build) (x y : Int) : Bool := 0 ≤ x && x < width && 0 ≤ y && y < cfg.height

/-- The read-modify-write of one byte (rules R57 and R110). -/
def plot (x y : Nat) (on : Bool) (s : State) : Flow :=
  match s.fbRead (byteIndex x y) with
  | some b => fbWrite (byteIndex x y) (pixelByte b (bitMask y) on) s
  | none => .stop (.fault .fbHole)

/-- `SetPixel(x, y, on)` (rule R110): the check comes first; when it fails, no byte is touched. -/
def setPixel (x y : Int) (on : Bool) (s : State) : Flow :=
  if inRange s.cfg x y then plot x.toNat y.toNat on s
  else .stop (raise .pixelRange (BitVec.ofInt 8 x) (BitVec.ofInt 8 y) s)

/-- `Pixel(x, y)`, the spec-level read of one pixel (rule R39). -/
def State.pixel? (s : State) (x y : Nat) : Option Bool :=
  (s.fbRead (byteIndex x y)).map fun (b : Byte) => (b >>> (y % 8)).getLsbD 0

/-- CLEAR (rule R112): every byte of `FB` is zero. -/
def execClear (s : State) : Host.Outcome State Fault Refusal :=
  .next (s.setFb (Memory.zeros s.cfg.fbLen)).endOp

/-- SETPIXEL (rule R111): the flag check first, before any effect (rule R197). -/
def execSetPixel (x y on : Byte) (s : State) : Host.Outcome State Fault Refusal :=
  if flagLegal on then (setPixel (coord x) (coord y) (flagBit on) s).finish
  else raise .illegalOperand 0x03 on s

end Sys2Proof.Machine
end

