-- ==== Sys2Proof/Machine/Line.lean ====
section
/-! DEFINITION. Line drawing (`rasterizer_line_drawer`, spec/42_line.md): DRAWLINE. -/

namespace Sys2Proof.Machine

/-- What the set-up of a line fixes (rule R131), and the endpoint. -/
structure LineParams where
  dx : Int
  dy : Int
  sx : Int
  sy : Int
  x1 : Int
  y1 : Int
  deriving DecidableEq, Repr

/-- The working registers of the walk: the current point and the error term (rule R29). -/
structure LinePoint where
  cx : Int
  cy : Int
  err : Int
  deriving DecidableEq, Repr

/-- The set-up (rule R131).  `dy` is negative or zero. -/
def lineParams (x0 y0 x1 y1 : Int) : LineParams where
  dx := (x1 - x0).natAbs
  dy := -((y1 - y0).natAbs : Int)
  sx := sign (x1 - x0)
  sy := sign (y1 - y0)
  x1 := x1
  y1 := y1

/-- The first point of the walk, with `err = dx + dy` (rule R131). -/
def lineStart (p : LineParams) (x0 y0 : Int) : LinePoint where
  cx := x0
  cy := y0
  err := p.dx + p.dy

/-- The end test: the current point is the endpoint (rule R132). -/
def LineParams.atEnd (p : LineParams) (c : LinePoint) : Bool := c.cx == p.x1 && c.cy == p.y1

/-- One iteration's step (rule R132): `e2` is computed once, and the two tests are independent. -/
def lineStep (p : LineParams) (c : LinePoint) : LinePoint :=
  let e2 := 2 * c.err
  { cx := if p.dy ≤ e2 then c.cx + p.sx else c.cx
    cy := if e2 ≤ p.dx then c.cy + p.sy else c.cy
    err := (if p.dy ≤ e2 then c.err + p.dy else c.err) + (if e2 ≤ p.dx then p.dx else 0) }

/-- The loop of rule R132, for at most `fuel` points: plot, then the end test, then the step. -/
def lineLoop (p : LineParams) (on : Bool) : Nat → LinePoint → State → Flow
  | 0, _, _ => .stop (.fault .lineFuel)
  | fuel + 1, c, s =>
    match setPixel c.cx c.cy on s with
    | .stop o => .stop o
    | .go s' => if p.atEnd c then .go s' else lineLoop p on fuel (lineStep p c) s'

/-- How many points a line has at most: `max(dx, |dy|) + 1` (rule R133). -/
def lineFuel (p : LineParams) : Nat := max p.dx.toNat (-p.dy).toNat + 1

/-- `DRAWLINE` after its flag check: set-up and loop (rules R131 and R132). -/
def drawLine (x0 y0 x1 y1 : Int) (on : Bool) (s : State) : Flow :=
  lineLoop (lineParams x0 y0 x1 y1) on (lineFuel (lineParams x0 y0 x1 y1))
    (lineStart (lineParams x0 y0 x1 y1) x0 y0) s

/-- The points of the walk in walk order, for at most `fuel` points, without plotting
(rule R132). -/
def linePointsFrom (p : LineParams) : Nat → LinePoint → List (Int × Int)
  | 0, _ => []
  | fuel + 1, c =>
    (c.cx, c.cy) :: (if p.atEnd c then [] else linePointsFrom p fuel (lineStep p c))

/-- The points of the line from `(x0, y0)` to `(x1, y1)` in walk order (rule R132). -/
def linePoints (x0 y0 x1 y1 : Int) : List (Int × Int) :=
  linePointsFrom (lineParams x0 y0 x1 y1) (lineFuel (lineParams x0 y0 x1 y1))
    (lineStart (lineParams x0 y0 x1 y1) x0 y0)

/-- DRAWLINE (rule R130): the flag check first, before any effect. -/
def execDrawLine (x0 y0 x1 y1 on : Byte) (s : State) : Host.Outcome State Fault Refusal :=
  if flagLegal on then
    (drawLine (coord x0) (coord y0) (coord x1) (coord y1) (flagBit on) s).finish
  else raise .illegalOperand 0x04 on s

end Sys2Proof.Machine
end

