-- ==== Sys2Proof/Machine/Text.lean ====
section
/-! DEFINITION. Text (`glyph_rom_blit_engine`, spec/43_text.md): WRITESTRING and `WriteChar`. -/

namespace Sys2Proof.Machine

open Config

/-- The guard of `WriteChar` and of WRITESTRING (rules R144 and R145): a soft bound miss. -/
def textMiss (cfg : Build) (x y : Nat) : Bool := width - 8 < x || cfg.height - 8 < y

/-- The eight columns of a glyph, left to right (rule R53). -/
def glyphColumns : List (Fin 8) := [0, 1, 2, 3, 4, 5, 6, 7]

/-- `FB[base + i] <- GLYPH[g][i]` for some columns `i`, in order (rule R144). -/
def blit (g : Fin 41) (base : Nat) : List (Fin 8) → State → Flow
  | [], s => .go s
  | i :: is, s => (fbWrite (base + i) (glyphByte s.cfg g i) s).andThen (blit g base is)

/-- `WriteChar(x, y, ch)` (rule R144): silently skipped out of the drawable area; `y` is snapped down
to its page; the eight bytes are overwritten. -/
def writeChar (x y : Nat) (ch : Byte) (s : State) : Flow :=
  if textMiss s.cfg x y then .go s
  else blit (charToGlyphIndex ch) (flatIndex (pageOf y) x) glyphColumns s

/-- The character loop of WRITESTRING; `curX` is `CUR_X` (rule R145). -/
def writeChars (y : Nat) : List Byte → Nat → State → Flow
  | [], _, s => .go s
  | ch :: chs, curX, s => (writeChar curX y ch s).andThen (writeChars y chs (curX + 8))

/-- WRITESTRING (rule R145): the leading check on the start position, then one `WriteChar` for each
character.  It raises nothing. -/
def execWriteString (x y : Byte) (str : List Byte) (s : State) : Host.Outcome State Fault Refusal :=
  if textMiss s.cfg (coord x) (coord y) then .next s.endOp
  else (writeChars (coord y) str (coord x) s).finish

end Sys2Proof.Machine
end

