-- ==== Sys2Proof/Machine/Window.lean ====
section
/-! DEFINITION. The window operation (`addressable_window_decoder`, spec/41_window.md): SETWINDOW. -/

namespace Sys2Proof.Machine

/-- SETWINDOW (rule R121): the bounds are tested as one condition; the five registers change
together. -/
def execSetWindow (sc ec sp ep : Byte) (s : State) : Host.Outcome State Fault Refusal :=
  if boundsLegal s.cfg sc ec sp ep then .next (s.setWin (Window.ofBounds sc ec sp ep)).endOp
  else raise .windowInvalid 0x00 0x00 s

end Sys2Proof.Machine
end

