-- ==== Sys2Proof/Machine/Dispatch.lean ====
section
/-! DEFINITION. The meaning of every instruction: one arm per constructor. -/

namespace Sys2Proof.Machine

def exec (i : Instr) (s : State) : Host.Outcome State Fault Refusal :=
  match i with
  -- host operations (format HP)
  | .init => Sys2Proof.Machine.execInit s
  | .clear => Sys2Proof.Machine.execClear s
  | .setPixel x y on => Sys2Proof.Machine.execSetPixel x y on s
  | .drawLine x0 y0 x1 y1 on => Sys2Proof.Machine.execDrawLine x0 y0 x1 y1 on s
  | .writeString x y str => Sys2Proof.Machine.execWriteString x y str s
  | .setWindow startCol endCol startPage endPage => Sys2Proof.Machine.execSetWindow startCol endCol startPage endPage s
  | .render => Sys2Proof.Machine.execRender s
  | .setScroll en => Sys2Proof.Machine.execSetScroll en s
  -- display commands (format BC)
  | .cmdSetDisp on => Sys2Proof.Machine.execCmdSetDisp on s
  | .cmdSetMemMode p => Sys2Proof.Machine.execCmdSetMemMode p s
  | .cmdSetDispStartLine => Sys2Proof.Machine.execCmdSetDispStartLine s
  | .cmdSetSegRemap v => Sys2Proof.Machine.execCmdSetSegRemap v s
  | .cmdSetMuxRatio p => Sys2Proof.Machine.execCmdSetMuxRatio p s
  | .cmdSetComOutDir v => Sys2Proof.Machine.execCmdSetComOutDir v s
  | .cmdSetDispOffset p => Sys2Proof.Machine.execCmdSetDispOffset p s
  | .cmdSetComPinCfg p => Sys2Proof.Machine.execCmdSetComPinCfg p s
  | .cmdSetDispClkDiv p => Sys2Proof.Machine.execCmdSetDispClkDiv p s
  | .cmdSetPrecharge p => Sys2Proof.Machine.execCmdSetPrecharge p s
  | .cmdSetVcomDesel p => Sys2Proof.Machine.execCmdSetVcomDesel p s
  | .cmdSetContrast p => Sys2Proof.Machine.execCmdSetContrast p s
  | .cmdSetEntireOn => Sys2Proof.Machine.execCmdSetEntireOn s
  | .cmdSetNormDisp => Sys2Proof.Machine.execCmdSetNormDisp s
  | .cmdSetChargePump p => Sys2Proof.Machine.execCmdSetChargePump p s
  | .cmdSetScroll en => Sys2Proof.Machine.execCmdSetScroll en s
  | .cmdSetColAddr startCol endCol => Sys2Proof.Machine.execCmdSetColAddr startCol endCol s
  | .cmdSetPageAddr startPage endPage => Sys2Proof.Machine.execCmdSetPageAddr startPage endPage s
  | .cmdSetHorizScroll p0 p1 p2 p3 p4 p5 => Sys2Proof.Machine.execCmdSetHorizScroll p0 p1 p2 p3 p4 p5 s
  -- bus framing (format BF)
  | .ctrlCommand c => Sys2Proof.Machine.execCtrlCommand c s
  | .ctrlData payload => Sys2Proof.Machine.execCtrlData payload s

end Sys2Proof.Machine
end

