-- ==== Sys2Proof/Machine/Fetch.lean ====
section
/-! DEFINITION. The command port: how the packet decoder takes bytes and starts an operation
(rules R25, R32, R83 and R85), and how a waiting operation goes on (rule R169). -/

namespace Sys2Proof.Machine

/-- All the bytes of the current packet the decoder can have: those taken and those offered. -/
def State.portBytes (s : State) : List Byte := s.pkt ++ s.cmdIn

/-- The decoder has taken every offered byte and waits for more: `BUSY` is 1 from the first byte
(rule R25). -/
def State.takeAll (s : State) : State :=
  if s.cmdIn.isEmpty then s else { s with pkt := s.portBytes, cmdIn := [], busy := true }

/-- The decoder has taken a whole packet: `i` is in the operand latches and `rest` is still offered
(rules R27 and R83). -/
def State.latched (s : State) (i : Instr) (rest : List Byte) : State :=
  { s with pkt := [], cmdIn := rest, busy := true, cur := some i }

/-- The decoder has taken an illegal byte 0 and nothing after it (rule R85(a), log 25). -/
def State.dropped (s : State) (rest : List Byte) : State := { s with pkt := [], cmdIn := rest }

/-- One step of an idle controller: take the bytes of one packet, and run its operation if it is
whole. -/
def fetch (s : State) : Host.Outcome State Fault Refusal :=
  match decode s.portBytes with
  | .packet i rest => exec i (s.latched i rest)
  | .incomplete => .next s.takeAll
  | .illegalOpcode b0 rest => raise .illegalOpcode b0 0x00 (s.dropped rest)

/-- One step of a controller whose transaction is in flight (rule R169): nothing until the bus agent
answers, then the rest of the operation. -/
def resume (i : Instr) (s : State) : Host.Outcome State Fault Refusal :=
  match s.busIn with
  | [] => .fault .busStalled
  | ok :: rest => sendResume i (s.answered ok rest)

/-- One step with an operation in progress. -/
def proceed (i : Instr) (s : State) : Host.Outcome State Fault Refusal :=
  if s.waiting then resume i s else exec i s

/-- One step out of reset: an operation in progress goes on; a halted block is dead (rule R208); an
idle one takes a packet. -/
def stepLive (s : State) : Host.Outcome State Fault Refusal :=
  match s.cur with
  | some i => proceed i s
  | none => if s.halt then .fault .halted else fetch s

/-- One step: a build that breaks rule R92 is refused; reset comes before everything else
(rule R220). -/
def stepOnce (s : State) : Host.Outcome State Fault Refusal :=
  if s.cfg.legal then if s.rst then .next s.resetNow else stepLive s
  else .refused .illegalConfig

/-- The bytes of instruction `i` placed at the front of what the host offers, with the packet decoder
idle. -/
def State.offerFirst (s : State) (bytes : List Byte) : State :=
  { s with pkt := [], cmdIn := bytes ++ s.cmdIn, cur := none, seqIdx := 0, waiting := false,
           busy := false }

/-- A sequencer instruction placed as the next thing the command sequencer sends. -/
def State.placeInSequencer (s : State) (i : Instr) : State :=
  { s with pkt := [], cur := some i, seqIdx := 0, waiting := false, busy := true }

/-- A running block: no reset asserted and no fault latched. -/
def State.running (s : State) : State :=
  { s with rst := false, halt := false, cause := 0, finfo0 := 0, finfo1 := 0 }

/-- A table word placed where the next step takes its instruction: a host packet at the command port;
a display command or a framing, which the port does not decode, in the command sequencer; a word that
is no instruction at the port, where the decoder rejects it (log 19). -/
def placeTableWord (s : State) (nbits w : Nat) : State :=
  match decodeTableWord nbits w with
  | some i =>
    if i.isHost then s.running.offerFirst ((layOut nbits w).take (encode i).length)
    else s.running.placeInSequencer i
  | none => s.running.offerFirst (tableBytes nbits w)

/-! ### What the outside world does between steps -/

/-- The host offers more bytes (rule R32). -/
def State.offer (s : State) (bytes : List Byte) : State := { s with cmdIn := s.cmdIn ++ bytes }

/-- The bus agent has more answers ready (rule R169). -/
def State.answer (s : State) (oks : List Bool) : State := { s with busIn := s.busIn ++ oks }

/-- The reset port is asserted (rule R220). -/
def State.assertReset (s : State) : State := { s with rst := true }

end Sys2Proof.Machine
end

