-- ==== Sys2Proof/Safety.lean ====
section
/-! DEFINITION. What claims about runs are stated in: the invariant of every reachable state
(rule R38), the two good forms of a transaction (rule R90), a failed run and a finished run
(rules R208 and R234). -/

namespace Sys2Proof.Machine

open Config

/-- `FB` has its canonical form: every index `0 .. FB_LEN-1` once (rule R21). -/
def State.FbOk (s : State) : Prop := s.fb.wf s.cfg.fbLen = true

/-- The window invariant (rule R23): legal bounds, and the length that follows from them. -/
def State.WinOk (s : State) : Prop :=
  boundsLegal s.cfg s.win.startCol s.win.endCol s.win.startPage s.win.endPage = true ∧
  (s.win.buflen.toNat : Int) =
    computeLength s.win.startCol s.win.endCol s.win.startPage s.win.endPage

/-- The two shapes of a transaction (rule R90): a command transaction of two bytes, or a data
transaction with at least one payload byte. -/
def GoodTransaction (t : Transaction) : Prop :=
  (∃ c, t = [0x80, c]) ∨ ∃ p, p ≠ [] ∧ t = 0x40 :: p

/-- The invariant of every reachable state: rule R38, and what ties the model's own fields to it. -/
structure State.Inv (s : State) : Prop where
  /-- The build is one the model accepts (rule R92). -/
  cfgLegal : s.cfg.legal = true
  /-- Rule R21. -/
  fbOk : s.FbOk
  /-- Rule R38(a) and (b). -/
  winOk : s.WinOk
  /-- Rule R38(d), first half. -/
  haltCause : s.halt = true → s.cause ≠ 0
  /-- Rule R38(d), second half. -/
  quiet : s.halt = false → s.cause = 0 ∧ s.finfo0 = 0 ∧ s.finfo1 = 0
  /-- Rule R38(e): the transactions of INIT are in `BUS_TRACE`, in order and contiguous. -/
  readyTrace : s.dcState = .ready →
    ∃ before after, s.trace = before ++ initTransactions s.cfg ++ after
  /-- Rules R33 and R90. -/
  goodTrace : ∀ t ∈ s.trace, GoodTransaction t
  /-- A halted block runs nothing and has taken nothing (rule R208). -/
  haltIdle : s.halt = true → s.cur = none ∧ s.pkt = []
  /-- The bytes taken so far are no whole packet and no illegal opcode (rule R83). -/
  pktOpen : decode s.pkt = .incomplete
  /-- No packet byte is taken while an operation executes (rule R25). -/
  curPkt : s.cur ≠ none → s.pkt = []
  /-- `BUSY` (rule R25). -/
  busyIff : s.busy = (s.cur.isSome || !s.pkt.isEmpty)
  /-- The operation in progress is an instruction with an encoding. -/
  curWf : ∀ i, s.cur = some i → i.wf = true
  /-- The transaction in flight is transaction `SEQ_IDX` of the operation in progress, and it and
  those before it are the last ones in `BUS_TRACE` (rule R169). -/
  inFlight : s.waiting = true →
    ∃ i ts before, s.cur = some i ∧ transactions s i = some ts ∧ s.seqIdx < ts.length ∧
      s.trace = before ++ ts.take (s.seqIdx + 1)
  /-- `SEQ_IDX` is 0 when nothing is in flight. -/
  seqIdle : s.waiting = false → s.seqIdx = 0
  /-- A stalled INIT is still `Uninitialized` (rule R164). -/
  initWaits : s.waiting = true → s.cur = some .init → s.dcState = .uninitialized

/-- Which instruction raises a cause (rule R195, the column "raised by").  `IllegalOpcode` is raised by
the packet decoder and by no instruction. -/
def Cause.RaisedBy : Cause → Instr → Prop
  | .pixelRange, i => (∃ x y on, i = .setPixel x y on) ∨ ∃ x0 y0 x1 y1 on, i = .drawLine x0 y0 x1 y1 on
  | .windowInvalid, i => ∃ sc ec sp ep, i = .setWindow sc ec sp ep
  | .notReady, i => i = .render
  | .alreadyReady, i => i = .init
  | .illegalOpcode, _ => False
  | .illegalOperand, i => (∃ x y on, i = .setPixel x y on) ∨
      (∃ x0 y0 x1 y1 on, i = .drawLine x0 y0 x1 y1 on) ∨ ∃ en, i = .setScroll en

/-- "a model counts `HALT = 1` as gone wrong" (rule R208). -/
def State.failed (s : State) : Bool := s.halt

/-- Every offered byte is taken, `BUSY = 0`, no transaction is unanswered: the normal end of a run
(rule R234). -/
def State.finished (s : State) : Bool := s.cmdIn.isEmpty && !s.busy && !s.waiting

/-- A run is over at its normal end, or as soon as it has failed, "whatever packets remain"
(rule R234).  A run with a transaction that is never answered is neither (rule R169). -/
def State.runOver (s : State) : Bool := s.finished || s.failed

/-- A good end of a run: over, and not failed (rules R208 and R234). -/
def State.goodEnd (s : State) : Bool := s.runOver && !s.failed

/-- The result of a run that is over (rule R234). -/
structure RunResult where
  fb : Memory
  win : Window
  dcState : DcState
  terr : Bool
  trace : List Transaction
  deriving DecidableEq, Repr

/-- The final `FB`, `WIN`, `DC_STATE`, `TERR` and `BUS_TRACE` (rule R234).  It is a result where
`runOver` holds; where `failed` holds too it is that of a failed run. -/
def State.result (s : State) : RunResult where
  fb := s.fb
  win := s.win
  dcState := s.dcState
  terr := s.terr
  trace := s.trace

/-- Two states that differ at most in what the bus agent answers: how many answers are ready is the
same, their values and `TERR` may differ (rule R170). -/
def State.SameButAnswers (s t : State) : Prop :=
  s.busIn.length = t.busIn.length ∧ { s with busIn := [], terr := false } =
    { t with busIn := [], terr := false }

/-- Two outcomes of a step that differ at most in what the bus agent answered. -/
def SameOutcomeButAnswers : Host.Outcome State Fault Refusal → Host.Outcome State Fault Refusal → Prop
  | .next s, .next t => s.SameButAnswers t
  | .fault a, .fault b => a = b
  | .refused a, .refused b => a = b
  | _, _ => False

end Sys2Proof.Machine
end

