-- ==== Sys2Proof/Certificates/Slice0/Obligations.lean ====
section
/-! DEFINITION. The statements for the provers.  Each docstring names the rule of spec/ it states.

Every effect is stated as the whole next state, so it states the frame too: a field that the state
expression does not name is unchanged.  `endOp` is the end of every operation (rule R14): `BUSY` falls
and the latches of the operation are empty.  `sent ts` is the state once the transactions `ts` are
sent and answered (rules R161 and R170). -/

open Sys2Proof Sys2Proof.Machine Sys2Proof.Config

/-! ### Encodings -/

/-- Rules R82 and R83: the packet of every host operation decodes to it, at every operand the packet
can hold, and the bytes after it are left. -/
def Obligations.HostPacketsRoundTrip : Prop :=
  ∀ (i : Instr) (rest : List Byte), i.isHost = true → i.wf = true →
    decode (encode i ++ rest) = .packet i rest

/-- Rule R83, the other direction: whatever the decoder reads as a packet is the packet of a host
operation, and it takes exactly the bytes of that packet. -/
def Obligations.DecoderTakesExactlyThePacket : Prop :=
  ∀ (bytes rest : List Byte) (i : Instr), decode bytes = .packet i rest →
    bytes = encode i ++ rest ∧ i.isHost = true ∧ i.wf = true

/-- Rule R83: before the last byte of a packet the decoder waits. -/
def Obligations.DecoderWaitsForTheLastByte : Prop :=
  ∀ (i : Instr) (n : Nat), i.isHost = true → i.wf = true → n < (encode i).length →
    decode ((encode i).take n) = .incomplete

/-- Rule R82: the opcode byte and the length of every packet. -/
def Obligations.PacketFormats : Prop :=
  encode .init = [0x01] ∧ encode .clear = [0x02] ∧
  (∀ x y on : Byte, encode (.setPixel x y on) = [0x03, x, y, on]) ∧
  (∀ x0 y0 x1 y1 on : Byte, encode (.drawLine x0 y0 x1 y1 on) = [0x04, x0, y0, x1, y1, on]) ∧
  (∀ (x y : Byte) (str : List Byte), str.length ≤ 255 →
    ∃ len : Byte, len.toNat = str.length ∧
      encode (.writeString x y str) = [0x05, x, y, len] ++ str ∧
      (encode (.writeString x y str)).length = 4 + len.toNat) ∧
  (∀ sc ec sp ep : Byte, encode (.setWindow sc ec sp ep) = [0x06, sc, ec, sp, ep]) ∧
  encode .render = [0x07] ∧ ∀ en : Byte, encode (.setScroll en) = [0x08, en]

/-- Rule R91, with the default codes of rule R93 (PRESUMED, log 2): the command bytes of every
display command decode to it, and the bytes after it are left. -/
def Obligations.DisplayCommandsRoundTrip : Prop :=
  ∀ (i : Instr) (rest : List Byte), i.isCommand = true →
    decodeCommand defaultCodes (encode i ++ rest) = some (i, rest)

/-- Rule R90: a list of bytes is a transaction of the block exactly when it is `[0x80, c]` or `0x40`
and at least one payload byte, and then it is the encoding of that framing. -/
def Obligations.TransactionsAreFramings : Prop :=
  (∀ (t : Transaction) (i : Instr), decodeFraming t = some i →
    GoodTransaction t ∧ i.isFraming = true ∧ encode i = t) ∧
  ∀ t : Transaction, GoodTransaction t → ∃ i, decodeFraming t = some i

/-- Words written out from the tables of the spec (rules R82, R93 and R90) decode to what they stand
for: at least one of every family.  A sanity statement. -/
def Obligations.WordsOfTheSpecDecode : Prop :=
  decode [0x03, 0x03, 0x0A, 0x01] = .packet (.setPixel 3 10 1) [] ∧
  decode [0x06, 0x08, 0x17, 0x01, 0x02, 0x07] = .packet (.setWindow 8 23 1 2) [0x07] ∧
  decode [0x04, 0x78, 0x3C, 0x82, 0x3C, 0x01] = .packet (.drawLine 120 60 130 60 1) [] ∧
  decode [0x05, 0x00, 0x00, 0x02, 0x41, 0x42] = .packet (.writeString 0 0 [0x41, 0x42]) [] ∧
  decode [0x08, 0x01] = .packet (.setScroll 1) [] ∧
  decodeCommand defaultCodes [0xC8, 0xD3] = some (.cmdSetComOutDir true, [0xD3]) ∧
  decodeFraming [0x80, 0xAF] = some (.ctrlCommand 0xAF)

/-! ### Pixels -/

/-- Rule R112: CLEAR in any state gives a framebuffer whose every byte reads as zero, and changes
nothing else. -/
def Obligations.ClearZeroFills : Prop :=
  encode .clear = [0x02] ∧
  ∀ s : State, ∃ m : Memory,
    exec .clear s = .next (s.setFb m).endOp ∧ m.wf s.cfg.fbLen = true ∧
    ∀ a < s.cfg.fbLen, m.read a = some 0x00

/-- Rule R111, with rule R110 inside it.  SETPIXEL inside the display changes one bit of one byte and
nothing else.  A flag operand with a reserved bit set is a fault, reported first; then a point outside
the display is one; both leave `FB` alone.  The premise `FbOk` is the invariant that every index of
`FB` exists. -/
def Obligations.SetPixelSetsOneBitOrFaults : Prop :=
  ∀ (s : State) (x y on : Byte),
    encode (.setPixel x y on) = [0x03, x, y, on] ∧
    (s.FbOk → on = 0x00 ∨ on = 0x01 → x.toNat < width → y.toNat < s.cfg.height →
      ∃ b : Byte, s.fbRead (y.toNat / 8 * width + x.toNat) = some b ∧
        exec (.setPixel x y on) s =
          .next (s.setFb (s.fb.write (y.toNat / 8 * width + x.toNat)
            (if on = 0x01 then b ||| (1#8 <<< (y.toNat % 8))
             else b &&& ~~~(1#8 <<< (y.toNat % 8))))).endOp) ∧
    (on ≠ 0x00 → on ≠ 0x01 →
      exec (.setPixel x y on) s = .next (s.faulted .illegalOperand 0x03 on)) ∧
    (on = 0x00 ∨ on = 0x01 → width ≤ x.toNat ∨ s.cfg.height ≤ y.toNat →
      exec (.setPixel x y on) s = .next (s.faulted .pixelRange x y))

/-- Rule R113(a) and (c): after SETPIXEL the pixel is as asked, and every other pixel of the display
is as before. -/
def Obligations.SetPixelChangesOnePixel : Prop :=
  ∀ (s : State) (x y on : Byte), s.FbOk → on = 0x00 ∨ on = 0x01 → x.toNat < width →
    y.toNat < s.cfg.height →
    ∃ t, exec (.setPixel x y on) s = .next t ∧ t.FbOk ∧
      t.pixel? x.toNat y.toNat = some (on == 0x01) ∧
      ∀ x' y' : Nat, x' < width → y' < s.cfg.height → (x', y') ≠ (x.toNat, y.toNat) →
        t.pixel? x' y' = s.pixel? x' y'

/-- Rule R113(b) and (d): the primitive is idempotent, and two on different points commute. -/
def Obligations.SetPixelRepeatsAndCommutes : Prop :=
  ∀ (s : State) (x y x' y' : Nat) (v v' : Bool), s.FbOk → x < width → y < s.cfg.height →
    x' < width → y' < s.cfg.height →
    ((setPixel x y v s).andThen (setPixel x y v) = setPixel x y v s) ∧
    ((x, y) ≠ (x', y') → (setPixel x y v s).andThen (setPixel x' y' v') =
      (setPixel x' y' v' s).andThen (setPixel x y v))

/-! ### The window -/

/-- Rule R121, with rule R120 inside it.  SETWINDOW with legal bounds loads the five registers together
and changes nothing else; the length is the product, exactly, and it is between 1 and `FB_LEN`.  With
any other bounds it faults and `WIN` is unchanged. -/
def Obligations.SetWindowLoadsBoundsOrFaults : Prop :=
  ∀ (s : State) (sc ec sp ep : Byte),
    encode (.setWindow sc ec sp ep) = [0x06, sc, ec, sp, ep] ∧
    (sc.toNat ≤ ec.toNat → ec.toNat < width → sp.toNat ≤ ep.toNat → ep.toNat < s.cfg.pages →
      ∃ len : BitVec 11, len.toNat = (ec.toNat - sc.toNat + 1) * (ep.toNat - sp.toNat + 1) ∧
        1 ≤ len.toNat ∧ len.toNat ≤ s.cfg.fbLen ∧
        exec (.setWindow sc ec sp ep) s = .next (s.setWin ⟨sc, ec, sp, ep, len⟩).endOp) ∧
    (¬(sc.toNat ≤ ec.toNat ∧ ec.toNat < width ∧ sp.toNat ≤ ep.toNat ∧ ep.toNat < s.cfg.pages) →
      exec (.setWindow sc ec sp ep) s = .next (s.faulted .windowInvalid 0x00 0x00))

/-- Rule R123 (the spec's derivation): the slice of a legal window lies inside the framebuffer. -/
def Obligations.WindowSliceInsideFramebuffer : Prop :=
  ∀ s : State, s.WinOk →
    1 ≤ s.win.buflen.toNat ∧
    s.win.startPage.toNat * width + s.win.startCol.toNat + s.win.buflen.toNat ≤ s.cfg.fbLen

/-! ### Lines -/

/-- Rules R130 to R133: DRAWLINE with both endpoints inside the display ends normally, sets or clears
exactly the pixels of the walk, and changes nothing but `FB`. -/
def Obligations.DrawLinePlotsExactlyTheWalk : Prop :=
  ∀ (s : State) (x0 y0 x1 y1 on : Byte), s.FbOk → on = 0x00 ∨ on = 0x01 →
    x0.toNat < width → y0.toNat < s.cfg.height → x1.toNat < width → y1.toNat < s.cfg.height →
    ∃ m : Memory, exec (.drawLine x0 y0 x1 y1 on) s = .next (s.setFb m).endOp ∧
      m.wf s.cfg.fbLen = true ∧
      ∀ x y : Nat, x < width → y < s.cfg.height →
        (s.setFb m).pixel? x y =
          if ((x : Int), (y : Int)) ∈
            linePoints (x0.toNat : Int) (y0.toNat : Int) (x1.toNat : Int) (y1.toNat : Int)
          then some (on == 0x01) else s.pixel? x y

/-- Rule R133 (the spec's derivation): for any endpoints a byte can hold, the walk starts at the
first, ends at the second, has `max(dx, |dy|) + 1` points, all distinct, and stays in the rectangle
the endpoints span. -/
def Obligations.LineWalkShape : Prop :=
  ∀ x0 y0 x1 y1 : Byte, ∀ pts : List (Int × Int),
    pts = linePoints (x0.toNat : Int) (y0.toNat : Int) (x1.toNat : Int) (y1.toNat : Int) →
    pts.head? = some ((x0.toNat : Int), (y0.toNat : Int)) ∧
    pts.getLast? = some ((x1.toNat : Int), (y1.toNat : Int)) ∧
    pts.length = max ((x1.toNat : Int) - x0.toNat).natAbs ((y1.toNat : Int) - y0.toNat).natAbs + 1 ∧
    pts.Nodup ∧
    ∀ q ∈ pts, min (x0.toNat : Int) x1.toNat ≤ q.1 ∧ q.1 ≤ max (x0.toNat : Int) x1.toNat ∧
      min (y0.toNat : Int) y1.toNat ≤ q.2 ∧ q.2 ≤ max (y0.toNat : Int) y1.toNat

/-- Rule R136: a line that leaves the display faults at the first point of the walk outside it; the
points before it stay plotted, `FB` keeps its canonical form, and nothing else changes. -/
def Obligations.DrawLineFaultsAtFirstPointOutside : Prop :=
  ∀ (s : State) (x0 y0 x1 y1 on : Byte), s.FbOk → on = 0x00 ∨ on = 0x01 →
    width ≤ x0.toNat ∨ s.cfg.height ≤ y0.toNat ∨ width ≤ x1.toNat ∨ s.cfg.height ≤ y1.toNat →
    ∃ (before after : List (Int × Int)) (cx cy : Byte) (m : Memory),
      linePoints (x0.toNat : Int) (y0.toNat : Int) (x1.toNat : Int) (y1.toNat : Int) =
        before ++ ((cx.toNat : Int), (cy.toNat : Int)) :: after ∧
      (∀ q ∈ before, 0 ≤ q.1 ∧ q.1 < width ∧ 0 ≤ q.2 ∧ q.2 < s.cfg.height) ∧
      (width ≤ cx.toNat ∨ s.cfg.height ≤ cy.toNat) ∧ m.wf s.cfg.fbLen = true ∧
      exec (.drawLine x0 y0 x1 y1 on) s = .next ((s.setFb m).faulted .pixelRange cx cy) ∧
      ∀ x y : Nat, x < width → y < s.cfg.height →
        (s.setFb m).pixel? x y =
          if ((x : Int), (y : Int)) ∈ before then some (on == 0x01) else s.pixel? x y

/-- Rules R130 and R197: a flag operand of DRAWLINE with a reserved bit set is a fault before any
point is plotted. -/
def Obligations.DrawLineRejectsReservedFlagBits : Prop :=
  ∀ (s : State) (x0 y0 x1 y1 on : Byte), on ≠ 0x00 → on ≠ 0x01 →
    exec (.drawLine x0 y0 x1 y1 on) s = .next (s.faulted .illegalOperand 0x04 on)

/-- Rule R134 (the spec's derivation): a single point, a horizontal, a vertical and an exactly diagonal
line step along both axes at once, by the signs of the two differences. -/
def Obligations.DegenerateLines : Prop :=
  ∀ x0 y0 x1 y1 : Byte, ∀ a b : Int, a = (x1.toNat : Int) - x0.toNat → b = (y1.toNat : Int) - y0.toNat →
    a = 0 ∨ b = 0 ∨ a.natAbs = b.natAbs →
    linePoints (x0.toNat : Int) (y0.toNat : Int) (x1.toNat : Int) (y1.toNat : Int) =
      (List.range (max a.natAbs b.natAbs + 1)).map
        fun (k : Nat) => ((x0.toNat : Int) + sign a * k, (y0.toNat : Int) + sign b * k)

/-- Rule R135: the worked example; the two directions give different pixels.  A sanity statement. -/
def Obligations.DirectionOfDrawingMatters : Prop :=
  linePoints 3 0 0 4 = [(3, 0), (2, 1), (1, 2), (1, 3), (0, 4)] ∧
  linePoints 0 4 3 0 = [(0, 4), (1, 3), (2, 2), (2, 1), (3, 0)]

/-! ### Text -/

/-- Rules R142 and R143 (ASCII codes: PRESUMED, log 20): the glyph index of every character code. -/
def Obligations.CharacterMapping : Prop :=
  ∀ ch : Byte,
    (0x41 ≤ ch.toNat ∧ ch.toNat ≤ 0x5A → (charToGlyphIndex ch).val = ch.toNat - 0x41 + 1) ∧
    (0x61 ≤ ch.toNat ∧ ch.toNat ≤ 0x7A → (charToGlyphIndex ch).val = ch.toNat - 0x61 + 1) ∧
    (0x30 ≤ ch.toNat ∧ ch.toNat ≤ 0x39 → (charToGlyphIndex ch).val = ch.toNat - 0x30 + 27) ∧
    (ch = 0x3D → charToGlyphIndex ch = 37) ∧ (ch = 0x2C → charToGlyphIndex ch = 38) ∧
    (ch = 0x25 → charToGlyphIndex ch = 39) ∧ (ch = 0x2E → charToGlyphIndex ch = 40) ∧
    (¬(0x41 ≤ ch.toNat ∧ ch.toNat ≤ 0x5A) → ¬(0x61 ≤ ch.toNat ∧ ch.toNat ≤ 0x7A) →
      ¬(0x30 ≤ ch.toNat ∧ ch.toNat ≤ 0x39) → ch ≠ 0x3D → ch ≠ 0x2C → ch ≠ 0x25 → ch ≠ 0x2E →
      charToGlyphIndex ch = 0)

/-- Rule R145, with rule R144 inside it.  WRITESTRING inside the drawable area copies the glyph of every
character that fits, leaves every other byte of `FB`, and changes nothing else; one that starts off
the drawable area changes nothing.  It raises nothing.  It holds in every state. -/
def Obligations.WriteStringBlitsGlyphs : Prop :=
  ∀ (s : State) (x y : Byte) (str : List Byte),
    (str.length ≤ 255 → ∃ len : Byte, len.toNat = str.length ∧
      encode (.writeString x y str) = [0x05, x, y, len] ++ str) ∧
    (x.toNat ≤ width - 8 → y.toNat ≤ s.cfg.height - 8 →
      ∃ m : Memory, exec (.writeString x y str) s = .next (s.setFb m).endOp ∧
        (∀ (k : Nat) (ch : Byte) (i : Fin 8), str[k]? = some ch → x.toNat + 8 * k ≤ width - 8 →
          m.read (y.toNat / 8 * width + x.toNat + 8 * k + i.val) =
            some (glyphByte s.cfg (charToGlyphIndex ch) i)) ∧
        ∀ a : Nat,
          (∀ (k : Nat) (i : Fin 8), k < str.length → x.toNat + 8 * k ≤ width - 8 →
            a ≠ y.toNat / 8 * width + x.toNat + 8 * k + i.val) →
          m.read a = s.fb.read a) ∧
    (width - 8 < x.toNat ∨ s.cfg.height - 8 < y.toNat →
      exec (.writeString x y str) s = .next s.endOp)

/-- Rule R147: text is page-aligned; `y` is snapped down to the top of its page. -/
def Obligations.TextSnapsToThePage : Prop :=
  ∀ (s : State) (x y y' : Byte) (str : List Byte), y.toNat ≤ s.cfg.height - 8 →
    y'.toNat = 8 * (y.toNat / 8) →
    exec (.writeString x y str) s = exec (.writeString x y' str) s

/-! ### The display -/

/-- Rule R164: INIT in `Uninitialized`, when the bus agent answers its 26 transactions, sends the
bring-up list of rule R94, one byte a transaction, and ends in `Ready`, whatever the answers are;
nothing else changes.  In `Ready` it faults and sends nothing. -/
def Obligations.InitSendsBringUpListOrFaults : Prop :=
  encode .init = [0x01] ∧ ∀ s : State,
    (s.dcState = .uninitialized → 26 ≤ s.busIn.length →
      exec .init s = .next ((s.sent
        [[0x80, s.cfg.cmd.disp], [0x80, s.cfg.cmd.memMode], [0x80, 0x00],
         [0x80, s.cfg.cmd.dispStartLine], [0x80, s.cfg.cmd.segRemap ||| 0x01],
         [0x80, s.cfg.cmd.muxRatio], [0x80, BitVec.ofNat 8 (s.cfg.height - 1)],
         [0x80, s.cfg.cmd.comOutDir ||| 0x08], [0x80, s.cfg.cmd.dispOffset], [0x80, 0x00],
         [0x80, s.cfg.cmd.comPinCfg],
         [0x80, if s.cfg.geom = .g128x64 then 0x12 else 0x02],
         [0x80, s.cfg.cmd.dispClkDiv], [0x80, 0x80], [0x80, s.cfg.cmd.precharge], [0x80, 0xF1],
         [0x80, s.cfg.cmd.vcomDesel], [0x80, 0x30], [0x80, s.cfg.cmd.contrast], [0x80, 0xFF],
         [0x80, s.cfg.cmd.entireOn], [0x80, s.cfg.cmd.normDisp], [0x80, s.cfg.cmd.chargePump],
         [0x80, 0x14], [0x80, s.cfg.cmd.scroll], [0x80, s.cfg.cmd.disp ||| 0x01]]).setReady).endOp) ∧
    (s.dcState = .ready → exec .init s = .next (s.faulted .alreadyReady 0x00 0x00))

/-- Rule R165, with rule R167 inside it: RENDER in `Ready`, when the bus agent answers its seven
transactions, sends the six addressing bytes and then the contiguous run of `WIN.buflen` bytes of `FB`
from the window's offset; nothing else changes.  In `Uninitialized` it faults and sends nothing. -/
def Obligations.RenderSendsContiguousRunOrFaults : Prop :=
  encode .render = [0x07] ∧ ∀ s : State,
    (s.FbOk → s.WinOk → s.dcState = .ready → 7 ≤ s.busIn.length →
      ∃ p : List Byte, p.length = s.win.buflen.toNat ∧
        (∀ k < s.win.buflen.toNat,
          s.fbRead (s.win.startPage.toNat * width + s.win.startCol.toNat + k) = p[k]?) ∧
        exec .render s = .next (s.sent
          [[0x80, s.cfg.cmd.colAddr], [0x80, s.win.startCol], [0x80, s.win.endCol],
           [0x80, s.cfg.cmd.pageAddr], [0x80, s.win.startPage], [0x80, s.win.endPage],
           0x40 :: p]).endOp) ∧
    (s.dcState = .uninitialized → exec .render s = .next (s.faulted .notReady 0x00 0x00))

/-- Rule R166: SETSCROLL with a legal flag, when the bus agent answers its eight transactions, sends
the eight bytes of rule R96 in either controller state; nothing else changes.  A flag operand with a
reserved bit set is a fault, and nothing is sent. -/
def Obligations.SetScrollSendsEightBytesOrFaults : Prop :=
  ∀ (s : State) (en : Byte),
    encode (.setScroll en) = [0x08, en] ∧
    (en = 0x00 ∨ en = 0x01 → 8 ≤ s.busIn.length →
      exec (.setScroll en) s = .next (s.sent
        [[0x80, s.cfg.cmd.horizScroll], [0x80, 0x00], [0x80, 0x00], [0x80, 0x00], [0x80, 0x03],
         [0x80, 0x00], [0x80, 0xFF],
         [0x80, if en = 0x01 then s.cfg.cmd.scroll ||| 0x01 else s.cfg.cmd.scroll]]).endOp) ∧
    (en ≠ 0x00 → en ≠ 0x01 →
      exec (.setScroll en) s = .next (s.faulted .illegalOperand 0x08 en))

/-- Rules R91 and R160: the bare and the or-ed display commands, when the bus agent answers, send one
command transaction; nothing else changes.  That they are instructions of the model is its own choice
(log 15). -/
def Obligations.BareAndOredCommandsSendOneByte : Prop :=
  ∀ (s : State) (v : Bool), 1 ≤ s.busIn.length →
    exec .cmdSetDispStartLine s = .next (s.sent [[0x80, s.cfg.cmd.dispStartLine]]).endOp ∧
    exec .cmdSetEntireOn s = .next (s.sent [[0x80, s.cfg.cmd.entireOn]]).endOp ∧
    exec .cmdSetNormDisp s = .next (s.sent [[0x80, s.cfg.cmd.normDisp]]).endOp ∧
    exec (.cmdSetDisp v) s =
      .next (s.sent [[0x80, s.cfg.cmd.disp ||| if v then 0x01 else 0x00]]).endOp ∧
    exec (.cmdSetSegRemap v) s =
      .next (s.sent [[0x80, s.cfg.cmd.segRemap ||| if v then 0x01 else 0x00]]).endOp ∧
    exec (.cmdSetComOutDir v) s =
      .next (s.sent [[0x80, s.cfg.cmd.comOutDir ||| if v then 0x08 else 0x00]]).endOp ∧
    exec (.cmdSetScroll v) s =
      .next (s.sent [[0x80, s.cfg.cmd.scroll ||| if v then 0x01 else 0x00]]).endOp

/-- Rules R91 and R161: the display commands with one parameter send the code and the parameter, each
as its own command transaction (log 15, log 16). -/
def Obligations.OneParameterCommandsSendTwoBytes : Prop :=
  ∀ (s : State) (p : Byte), 2 ≤ s.busIn.length →
    exec (.cmdSetMemMode p) s = .next (s.sent [[0x80, s.cfg.cmd.memMode], [0x80, p]]).endOp ∧
    exec (.cmdSetMuxRatio p) s = .next (s.sent [[0x80, s.cfg.cmd.muxRatio], [0x80, p]]).endOp ∧
    exec (.cmdSetDispOffset p) s = .next (s.sent [[0x80, s.cfg.cmd.dispOffset], [0x80, p]]).endOp ∧
    exec (.cmdSetComPinCfg p) s = .next (s.sent [[0x80, s.cfg.cmd.comPinCfg], [0x80, p]]).endOp ∧
    exec (.cmdSetDispClkDiv p) s = .next (s.sent [[0x80, s.cfg.cmd.dispClkDiv], [0x80, p]]).endOp ∧
    exec (.cmdSetPrecharge p) s = .next (s.sent [[0x80, s.cfg.cmd.precharge], [0x80, p]]).endOp ∧
    exec (.cmdSetVcomDesel p) s = .next (s.sent [[0x80, s.cfg.cmd.vcomDesel], [0x80, p]]).endOp ∧
    exec (.cmdSetContrast p) s = .next (s.sent [[0x80, s.cfg.cmd.contrast], [0x80, p]]).endOp ∧
    exec (.cmdSetChargePump p) s = .next (s.sent [[0x80, s.cfg.cmd.chargePump], [0x80, p]]).endOp

/-- Rules R91, R95 and R96: the display commands with two and with six parameters, each when the bus
agent has an answer for each of its bytes (log 15, log 16). -/
def Obligations.AddressAndScrollCommandsSendTheirBytes : Prop :=
  ∀ (s : State) (a b c d e f : Byte),
    (3 ≤ s.busIn.length →
      exec (.cmdSetColAddr a b) s =
        .next (s.sent [[0x80, s.cfg.cmd.colAddr], [0x80, a], [0x80, b]]).endOp ∧
      exec (.cmdSetPageAddr a b) s =
        .next (s.sent [[0x80, s.cfg.cmd.pageAddr], [0x80, a], [0x80, b]]).endOp) ∧
    (7 ≤ s.busIn.length →
      exec (.cmdSetHorizScroll a b c d e f) s =
        .next (s.sent [[0x80, s.cfg.cmd.horizScroll], [0x80, a], [0x80, b], [0x80, c], [0x80, d],
          [0x80, e], [0x80, f]]).endOp)

/-- Rules R160 and R162: `SendCmd(c)` is one transaction `[0x80, c]`, `SendData(p)` one transaction
`0x40` and `p`, when the bus agent answers (log 15). -/
def Obligations.FramingsSendOneTransaction : Prop :=
  ∀ (s : State) (c : Byte) (p : List Byte), 1 ≤ s.busIn.length →
    exec (.ctrlCommand c) s = .next (s.sent [[0x80, c]]).endOp ∧
    (p ≠ [] → exec (.ctrlData p) s = .next (s.sent [0x40 :: p]).endOp)

/-- Rule R94 (the spec's list) against rule R91 (the spec's commands): the bring-up list is the
seventeen display commands of INIT in order. -/
def Obligations.BringUpListIsItsCommands : Prop :=
  ∀ cfg : Build, initTransactions cfg = cmdTransactions
    (List.flatMap (commandBytes cfg.cmd)
      [.cmdSetDisp false, .cmdSetMemMode 0x00, .cmdSetDispStartLine, .cmdSetSegRemap true,
       .cmdSetMuxRatio (BitVec.ofNat 8 (cfg.height - 1)), .cmdSetComOutDir true,
       .cmdSetDispOffset 0x00, .cmdSetComPinCfg (if cfg.geom = .g128x64 then 0x12 else 0x02),
       .cmdSetDispClkDiv 0x80, .cmdSetPrecharge 0xF1, .cmdSetVcomDesel 0x30, .cmdSetContrast 0xFF,
       .cmdSetEntireOn, .cmdSetNormDisp, .cmdSetChargePump 0x14, .cmdSetScroll false,
       .cmdSetDisp true])

/-! ### Waiting for the bus -/

/-- Rule R169: an operation that has started to send and finds the bus silent stays in progress:
`BUSY = 1`, its transactions up to the unanswered one are in `BUS_TRACE`, and nothing else of the
block changes.  It holds for every instruction that sends, the sequencer's own included (log 15).
That `seqIdx` is then the number of answered transactions, for RENDER too, is the model's choice
(log 14). -/
def Obligations.SilentBusLeavesOperationWaiting : Prop :=
  ∀ (s : State) (i : Instr) (ts : List Transaction),
    (i = .init → s.dcState = .uninitialized) → (i = .render → s.dcState = .ready) →
    (∀ en : Byte, i = .setScroll en → en = 0x00 ∨ en = 0x01) →
    transactions s i = some ts → s.busIn.length < ts.length →
    exec i s = .next
      { s with
        trace := s.trace ++ ts.take (s.busIn.length + 1), busIn := []
        terr := s.terr || s.busIn.any (!·), seqIdx := s.busIn.length
        waiting := true, busy := true, cur := some i }

/-- Rule R169: while a transaction is unanswered the machine has no step. -/
def Obligations.NoStepPastUnansweredTransaction : Prop :=
  ∀ (s : State) (i : Instr), s.cfg.legal = true → s.rst = false → s.cur = some i →
    s.waiting = true → s.busIn = [] → step s = .fault .busStalled

/-- Rules R169 and R61: the time an answer takes does not matter.  An operation that waits and is
answered later ends as if the answers had been there at once. -/
def Obligations.LateAnswersGiveTheSameEnd : Prop :=
  ∀ (s t : State) (i : Instr) (ok : Bool) (later : List Bool), s.cfg.legal = true →
    s.rst = false → s.waiting = false → exec i s = .next t → t.waiting = true →
    step (t.answer (ok :: later)) = exec i (s.answer (ok :: later))

/-- Rule R170: the answers of the bus agent change `TERR` and nothing else, in any step of any two
states that differ only in them. -/
def Obligations.AnswersChangeNothingButTerr : Prop :=
  ∀ s t : State, s.SameButAnswers t → SameOutcomeButAnswers (step s) (step t)

/-- Rule R170: `TERR` after a whole operation is set exactly if it was set or one of the answers was
`ok = 0`; the answers used are one for each transaction sent. -/
def Obligations.TerrRecordsEveryFailedTransaction : Prop :=
  ∀ (s t : State) (i : Instr), exec i s = .next t → t.waiting = false →
    ∃ ts : List Transaction, t.trace = s.trace ++ ts ∧ ts.length ≤ s.busIn.length ∧
      t.busIn = s.busIn.drop ts.length ∧
      t.terr = (s.terr || (s.busIn.take ts.length).any (!·))

/-! ### Faults and the halt latch -/

/-- Rule R194: what fault entry latches, and that it changes nothing else of the block: `FB`, `WIN`,
`DC_STATE`, `TERR` and `BUS_TRACE` are as they were, and so are the build and the inputs.  "The operation
ends here" is that no instruction is in progress and no transaction in flight. -/
def Obligations.FaultEntryLatches : Prop :=
  ∀ (s : State) (c : Cause) (a b : Byte), ∃ t : State, raise c a b s = .next t ∧ t.halt = true ∧
    t.cause = c.code ∧ t.finfo0 = a ∧ t.finfo1 = b ∧ t.busy = false ∧ t.fb = s.fb ∧ t.win = s.win ∧
    t.dcState = s.dcState ∧ t.terr = s.terr ∧ t.trace = s.trace ∧ t.cfg = s.cfg ∧
    t.cmdIn = s.cmdIn ∧ t.busIn = s.busIn ∧ t.rst = s.rst ∧ t.epoch = s.epoch ∧ t.pkt = s.pkt ∧
    t.cur = none ∧ t.waiting = false

/-- Rule R195: the codes of the six causes, none of them zero, no two the same. -/
def Obligations.CauseCodes : Prop :=
  Cause.pixelRange.code = 0x01 ∧ Cause.windowInvalid.code = 0x02 ∧ Cause.notReady.code = 0x03 ∧
  Cause.alreadyReady.code = 0x04 ∧ Cause.illegalOpcode.code = 0x05 ∧
  Cause.illegalOperand.code = 0x06 ∧ (∀ c : Cause, c.code ≠ 0x00) ∧
  ∀ c d : Cause, c.code = d.code → c = d

/-- Rules R171 and R194: an operation that ends by a fault has sent nothing and changed nothing but
the fault registers, and pixels if it is DRAWLINE. -/
def Obligations.FaultingOperationSendsNothing : Prop :=
  ∀ (s t : State) (i : Instr), exec i s = .next t → s.halt = false → t.halt = true →
    t.trace = s.trace ∧ t.busIn = s.busIn ∧ t.win = s.win ∧ t.dcState = s.dcState ∧
    t.terr = s.terr ∧ t.busy = false ∧ t.cur = none ∧ t.cause ≠ 0 ∧
    ((∀ x0 y0 x1 y1 on : Byte, i ≠ .drawLine x0 y0 x1 y1 on) → t.fb = s.fb)

/-- Rule R195: CLEAR and WRITESTRING raise nothing, in any state and at any operands. -/
def Obligations.ClearAndWriteStringRaiseNothing : Prop :=
  ∀ (s : State) (x y : Byte) (str : List Byte),
    (∃ t, exec .clear s = .next t ∧ t.halt = s.halt ∧ t.cause = s.cause) ∧
    ∃ t, exec (.writeString x y str) s = .next t ∧ t.halt = s.halt ∧ t.cause = s.cause

/-- Rule R85(a): a byte 0 that encodes no operation is a fault at once; no further byte is taken. -/
def Obligations.IllegalOpcodeFaultsAtOnce : Prop :=
  ∀ (s : State) (b0 : Byte) (rest : List Byte), s.cfg.legal = true → s.rst = false →
    s.halt = false → s.cur = none → s.pkt = [] → s.cmdIn = b0 :: rest →
    b0 = 0x00 ∨ 0x09 ≤ b0.toNat →
    step s = .next { s.faulted .illegalOpcode b0 0x00 with cmdIn := rest }

/-- Rule R208 (with the stop of log 10): a halted block takes no packet byte and runs nothing until
reset, whatever is offered. -/
def Obligations.HaltedBlockIsDead : Prop :=
  ∀ s : State, s.Inv → s.halt = true → s.rst = false → step s = .fault .halted

/-! ### Steps -/

/-- When the bytes at the command port are the packet of a host operation, one step of an idle block
is the meaning of that operation, at the state in which the packet is taken: its bytes are gone from
the port, `BUSY = 1` (rule R25), and the operation is latched. -/
def Obligations.StepRunsTheDecodedPacket : Prop :=
  ∀ (s : State) (i : Instr) (rest : List Byte), s.cfg.legal = true → s.rst = false →
    s.halt = false → s.cur = none → s.pkt = [] → i.isHost = true → i.wf = true →
    s.cmdIn = encode i ++ rest →
    step s = exec i { s with cmdIn := rest, busy := true, cur := some i }

/-- When a sequencer instruction, or any operation, is latched and has sent nothing, one step is its
meaning (log 15). -/
def Obligations.StepRunsTheLatchedInstruction : Prop :=
  ∀ (s : State) (i : Instr), s.cfg.legal = true → s.rst = false → s.cur = some i →
    s.waiting = false → step s = exec i s

/-- Rules R25 and R83: an unfinished packet is taken and waits in the latches with `BUSY = 1`; after
it, any further bytes do what they do when all are offered at once, whether they complete the packet
or not.  Clause by clause this covers a packet in any number of pieces. -/
def Obligations.PacketsMayArriveInPieces : Prop :=
  ∀ (s : State) (first later : List Byte), s.cfg.legal = true → s.rst = false →
    s.halt = false → s.cur = none → s.pkt = [] → s.busy = false → s.cmdIn = [] → first ≠ [] →
    decode first = .incomplete →
    step (s.offer first) = .next { s with pkt := first, busy := true } ∧
    step ({ s with pkt := first, busy := true }.offer later) = step (s.offer (first ++ later))

/-- Rules R25, R32 and R208: while `cmd_ready = 0` no step takes a packet byte, the reset step neither
(log 27). -/
def Obligations.NotReadyTakesNoByte : Prop :=
  ∀ s t : State, s.cmdReady = false → step s = .next t → t.cmdIn = s.cmdIn

/-- Rule R220: reset in any state, in the middle of an operation too, puts every register at its
reset value (rule R36) and sends nothing; what the host and the bus agent have ready is theirs
(log 9). -/
def Obligations.ResetFromAnyState : Prop :=
  ∀ s : State, s.cfg.legal = true → s.rst = true →
    ∃ t, step s = .next t ∧ t.dcState = .uninitialized ∧
      t.win = ⟨0x00, 0x7F, 0x00, BitVec.ofNat 8 (s.cfg.pages - 1), BitVec.ofNat 11 s.cfg.fbLen⟩ ∧
      t.halt = false ∧ t.cause = 0x00 ∧ t.finfo0 = 0x00 ∧ t.finfo1 = 0x00 ∧ t.busy = false ∧
      t.terr = false ∧ t.trace = [] ∧ t.pkt = [] ∧ t.cur = none ∧ t.waiting = false ∧
      t.cfg = s.cfg ∧ t.cmdIn = s.cmdIn ∧ t.busIn = s.busIn ∧ t.FbOk

/-- Rule R92: a build whose command codes break the OR constraint is refused. -/
def Obligations.IllegalCommandCodesRefused : Prop :=
  ∀ s : State, (s.cfg.cmd.disp.getLsbD 0 = true ∨ s.cfg.cmd.segRemap.getLsbD 0 = true ∨
    s.cfg.cmd.scroll.getLsbD 0 = true ∨ s.cfg.cmd.comOutDir.getLsbD 3 = true) →
    step s = .refused .illegalConfig

/-- Rule R30: the bits of `STATUS`. -/
def Obligations.StatusBits : Prop :=
  ∀ s : State, s.status.getLsbD 0 = (s.dcState == .ready) ∧ s.status.getLsbD 1 = s.busy ∧
    s.status.getLsbD 2 = s.halt ∧ s.status.getLsbD 3 = s.terr ∧
    ∀ k, 4 ≤ k → s.status.getLsbD k = false

/-! ### The whole machine -/

/-- Rules R22, R23, R24, R26, R31 and R33: what no step out of reset does.  `DC_STATE` never leaves
`Ready`; `HALT` and `TERR` never fall; the build never changes; `BUS_TRACE` only grows. -/
def Obligations.StickyStateNeverFalls : Prop :=
  ∀ s t : State, s.rst = false → step s = .next t →
    t.cfg = s.cfg ∧ (s.dcState = .ready → t.dcState = .ready) ∧ (s.halt = true → t.halt = true) ∧
    (s.terr = true → t.terr = true) ∧ ∃ ts, t.trace = s.trace ++ ts

/-- Rules R21 to R26, R33, R194 and R195: who writes what, in any state.  `FB` is written by the four
drawing operations alone, `WIN` by SETWINDOW alone, `DC_STATE` by INIT alone; `HALT`, `CAUSE`, `FINFO0`
and `FINFO1` by fault entry alone, with a cause that the instruction may raise; `BUS_TRACE` and `TERR` by
the instructions that send alone; and `BUSY` is 1 after it exactly while a transaction is unanswered.
No instruction writes the build or what the host offers.  That display commands and framings are
instructions that send is the model's choice (log 15). -/
def Obligations.EveryRegisterHasItsWriters : Prop :=
  ∀ (s t : State) (i : Instr), exec i s = .next t →
    (t.fb ≠ s.fb → i = .clear ∨ (∃ x y on, i = .setPixel x y on) ∨
      (∃ x0 y0 x1 y1 on, i = .drawLine x0 y0 x1 y1 on) ∨ ∃ x y str, i = .writeString x y str) ∧
    (t.win ≠ s.win → ∃ sc ec sp ep, i = .setWindow sc ec sp ep) ∧
    (t.dcState ≠ s.dcState → i = .init ∧ t.dcState = .ready) ∧
    (t.halt ≠ s.halt ∨ t.cause ≠ s.cause ∨ t.finfo0 ≠ s.finfo0 ∨ t.finfo1 ≠ s.finfo1 →
      t.halt = true ∧ ∃ c : Cause, c.RaisedBy i ∧ t.cause = c.code) ∧
    (t.trace ≠ s.trace ∨ t.terr ≠ s.terr ∨ t.busIn ≠ s.busIn →
      i = .init ∨ i = .render ∨ (∃ en, i = .setScroll en) ∨ i.isHost = false) ∧
    (t.terr ≠ s.terr → t.terr = true) ∧ t.busy = t.waiting ∧
    t.cfg = s.cfg ∧ t.epoch = s.epoch ∧ t.rst = s.rst ∧ t.cmdIn = s.cmdIn ∧ t.pkt = s.pkt

/-- Rule R171 (the spec's derivation): the transactions and the bus bytes of one whole run of each
operation. -/
def Obligations.TransactionCounts : Prop :=
  ∀ (s t : State) (i : Instr), s.halt = false → exec i s = .next t → t.halt = false →
    t.waiting = false → i.isHost = true →
    ∃ ts : List Transaction, t.trace = s.trace ++ ts ∧
      (i = .init → ts.length = 26 ∧ ts.flatten.length = 52) ∧
      (i = .render → s.FbOk → s.WinOk →
        ts.length = 7 ∧ ts.flatten.length = 12 + 1 + s.win.buflen.toNat) ∧
      ((∃ en, i = .setScroll en) → ts.length = 8 ∧ ts.flatten.length = 16) ∧
      (i ≠ .init → i ≠ .render → (∀ en, i ≠ .setScroll en) → ts = [])

/-- The invariant holds right after reset, for every build the model accepts: rule R38, base case. -/
def Obligations.ResetMeetsInvariant : Prop :=
  State.reset.Inv ∧ ∀ (cfg : Build) (epoch : Nat) (cmdIn : List Byte) (busIn : List Bool),
    cfg.legal = true → (State.afterReset cfg epoch cmdIn busIn).Inv

/-- Rule R38: every step keeps the invariant: legal window and length, canonical framebuffer, the
cause registers agree with `HALT`, the bring-up list is in `BUS_TRACE` once `Ready`, and every
transaction has one of the two shapes of rule R90. -/
def Obligations.EveryStepKeepsInvariant : Prop :=
  ∀ s t : State, s.Inv → step s = .next t → t.Inv

/-- Rules R38 and R52: from a state that meets the invariant, a step never meets a framebuffer index
that does not exist, and no line outlives its bound; the machine stops only halted or waiting for the
bus. -/
def Obligations.ReachableStepsNeverMissTheFramebuffer : Prop :=
  ∀ s : State, s.Inv →
    (∃ t, step s = .next t) ∨ (step s = .fault .halted ∧ s.halt = true) ∨
      (step s = .fault .busStalled ∧ s.waiting = true ∧ s.busIn = [])

/-- Rule R234: a run that is over stays over, with the result it has.  A failed run has no next state
(log 10), whatever packets remain; a run at its normal end idles in its last state (log 8).  A run with
an unanswered transaction is not over. -/
def Obligations.OverIsFinal : Prop :=
  ∀ s : State, s.Inv → s.rst = false →
    (s.halt = true → s.runOver = true ∧ s.goodEnd = false ∧ step s = .fault .halted) ∧
    (s.runOver = true → s.halt = false →
      s.goodEnd = true ∧ s.cur = none ∧ s.pkt = [] ∧ s.cmdIn = [] ∧ step s = .next s) ∧
    (s.waiting = true → s.runOver = false)

/-- Rule R32: when `cmd_valid` and `cmd_ready` are both 1 a byte is transferred.  One step takes at least
the byte that is offered, and only bytes at the front of what is offered; how many more it takes is the
model's grain (log 22). -/
def Obligations.ReadyTakesTheOfferedByte : Prop :=
  ∀ s : State, s.Inv → s.cmdValid = true → s.cmdReady = true →
    ∃ (t : State) (taken : List Byte), step s = .next t ∧ taken ≠ [] ∧ s.cmdIn = taken ++ t.cmdIn
end

