-- ==== Sys2Proof/Laws/State.lean ====
section
/-! SUPPORT. What each named update of the state does to each field: one lemma for each, true by
definition, so that no proof unfolds a record update. -/

namespace Sys2Proof.Machine

/-! `State.setFb` -/

@[simp] theorem State.setFb_cfg (s : State) (m : Memory) :
    (s.setFb m).cfg = s.cfg := rfl
@[simp] theorem State.setFb_epoch (s : State) (m : Memory) :
    (s.setFb m).epoch = s.epoch := rfl
@[simp] theorem State.setFb_fb (s : State) (m : Memory) :
    (s.setFb m).fb = m := rfl
@[simp] theorem State.setFb_dcState (s : State) (m : Memory) :
    (s.setFb m).dcState = s.dcState := rfl
@[simp] theorem State.setFb_win (s : State) (m : Memory) :
    (s.setFb m).win = s.win := rfl
@[simp] theorem State.setFb_halt (s : State) (m : Memory) :
    (s.setFb m).halt = s.halt := rfl
@[simp] theorem State.setFb_cause (s : State) (m : Memory) :
    (s.setFb m).cause = s.cause := rfl
@[simp] theorem State.setFb_finfo0 (s : State) (m : Memory) :
    (s.setFb m).finfo0 = s.finfo0 := rfl
@[simp] theorem State.setFb_finfo1 (s : State) (m : Memory) :
    (s.setFb m).finfo1 = s.finfo1 := rfl
@[simp] theorem State.setFb_busy (s : State) (m : Memory) :
    (s.setFb m).busy = s.busy := rfl
@[simp] theorem State.setFb_terr (s : State) (m : Memory) :
    (s.setFb m).terr = s.terr := rfl
@[simp] theorem State.setFb_pkt (s : State) (m : Memory) :
    (s.setFb m).pkt = s.pkt := rfl
@[simp] theorem State.setFb_cur (s : State) (m : Memory) :
    (s.setFb m).cur = s.cur := rfl
@[simp] theorem State.setFb_seqIdx (s : State) (m : Memory) :
    (s.setFb m).seqIdx = s.seqIdx := rfl
@[simp] theorem State.setFb_waiting (s : State) (m : Memory) :
    (s.setFb m).waiting = s.waiting := rfl
@[simp] theorem State.setFb_trace (s : State) (m : Memory) :
    (s.setFb m).trace = s.trace := rfl
@[simp] theorem State.setFb_rst (s : State) (m : Memory) :
    (s.setFb m).rst = s.rst := rfl
@[simp] theorem State.setFb_cmdIn (s : State) (m : Memory) :
    (s.setFb m).cmdIn = s.cmdIn := rfl
@[simp] theorem State.setFb_busIn (s : State) (m : Memory) :
    (s.setFb m).busIn = s.busIn := rfl

/-! `State.setWin` -/

@[simp] theorem State.setWin_cfg (s : State) (w : Window) :
    (s.setWin w).cfg = s.cfg := rfl
@[simp] theorem State.setWin_epoch (s : State) (w : Window) :
    (s.setWin w).epoch = s.epoch := rfl
@[simp] theorem State.setWin_fb (s : State) (w : Window) :
    (s.setWin w).fb = s.fb := rfl
@[simp] theorem State.setWin_dcState (s : State) (w : Window) :
    (s.setWin w).dcState = s.dcState := rfl
@[simp] theorem State.setWin_win (s : State) (w : Window) :
    (s.setWin w).win = w := rfl
@[simp] theorem State.setWin_halt (s : State) (w : Window) :
    (s.setWin w).halt = s.halt := rfl
@[simp] theorem State.setWin_cause (s : State) (w : Window) :
    (s.setWin w).cause = s.cause := rfl
@[simp] theorem State.setWin_finfo0 (s : State) (w : Window) :
    (s.setWin w).finfo0 = s.finfo0 := rfl
@[simp] theorem State.setWin_finfo1 (s : State) (w : Window) :
    (s.setWin w).finfo1 = s.finfo1 := rfl
@[simp] theorem State.setWin_busy (s : State) (w : Window) :
    (s.setWin w).busy = s.busy := rfl
@[simp] theorem State.setWin_terr (s : State) (w : Window) :
    (s.setWin w).terr = s.terr := rfl
@[simp] theorem State.setWin_pkt (s : State) (w : Window) :
    (s.setWin w).pkt = s.pkt := rfl
@[simp] theorem State.setWin_cur (s : State) (w : Window) :
    (s.setWin w).cur = s.cur := rfl
@[simp] theorem State.setWin_seqIdx (s : State) (w : Window) :
    (s.setWin w).seqIdx = s.seqIdx := rfl
@[simp] theorem State.setWin_waiting (s : State) (w : Window) :
    (s.setWin w).waiting = s.waiting := rfl
@[simp] theorem State.setWin_trace (s : State) (w : Window) :
    (s.setWin w).trace = s.trace := rfl
@[simp] theorem State.setWin_rst (s : State) (w : Window) :
    (s.setWin w).rst = s.rst := rfl
@[simp] theorem State.setWin_cmdIn (s : State) (w : Window) :
    (s.setWin w).cmdIn = s.cmdIn := rfl
@[simp] theorem State.setWin_busIn (s : State) (w : Window) :
    (s.setWin w).busIn = s.busIn := rfl

/-! `State.setReady` -/

@[simp] theorem State.setReady_cfg (s : State) :
    s.setReady.cfg = s.cfg := rfl
@[simp] theorem State.setReady_epoch (s : State) :
    s.setReady.epoch = s.epoch := rfl
@[simp] theorem State.setReady_fb (s : State) :
    s.setReady.fb = s.fb := rfl
@[simp] theorem State.setReady_dcState (s : State) :
    s.setReady.dcState = .ready := rfl
@[simp] theorem State.setReady_win (s : State) :
    s.setReady.win = s.win := rfl
@[simp] theorem State.setReady_halt (s : State) :
    s.setReady.halt = s.halt := rfl
@[simp] theorem State.setReady_cause (s : State) :
    s.setReady.cause = s.cause := rfl
@[simp] theorem State.setReady_finfo0 (s : State) :
    s.setReady.finfo0 = s.finfo0 := rfl
@[simp] theorem State.setReady_finfo1 (s : State) :
    s.setReady.finfo1 = s.finfo1 := rfl
@[simp] theorem State.setReady_busy (s : State) :
    s.setReady.busy = s.busy := rfl
@[simp] theorem State.setReady_terr (s : State) :
    s.setReady.terr = s.terr := rfl
@[simp] theorem State.setReady_pkt (s : State) :
    s.setReady.pkt = s.pkt := rfl
@[simp] theorem State.setReady_cur (s : State) :
    s.setReady.cur = s.cur := rfl
@[simp] theorem State.setReady_seqIdx (s : State) :
    s.setReady.seqIdx = s.seqIdx := rfl
@[simp] theorem State.setReady_waiting (s : State) :
    s.setReady.waiting = s.waiting := rfl
@[simp] theorem State.setReady_trace (s : State) :
    s.setReady.trace = s.trace := rfl
@[simp] theorem State.setReady_rst (s : State) :
    s.setReady.rst = s.rst := rfl
@[simp] theorem State.setReady_cmdIn (s : State) :
    s.setReady.cmdIn = s.cmdIn := rfl
@[simp] theorem State.setReady_busIn (s : State) :
    s.setReady.busIn = s.busIn := rfl

/-! `State.endOp` -/

@[simp] theorem State.endOp_cfg (s : State) :
    s.endOp.cfg = s.cfg := rfl
@[simp] theorem State.endOp_epoch (s : State) :
    s.endOp.epoch = s.epoch := rfl
@[simp] theorem State.endOp_fb (s : State) :
    s.endOp.fb = s.fb := rfl
@[simp] theorem State.endOp_dcState (s : State) :
    s.endOp.dcState = s.dcState := rfl
@[simp] theorem State.endOp_win (s : State) :
    s.endOp.win = s.win := rfl
@[simp] theorem State.endOp_halt (s : State) :
    s.endOp.halt = s.halt := rfl
@[simp] theorem State.endOp_cause (s : State) :
    s.endOp.cause = s.cause := rfl
@[simp] theorem State.endOp_finfo0 (s : State) :
    s.endOp.finfo0 = s.finfo0 := rfl
@[simp] theorem State.endOp_finfo1 (s : State) :
    s.endOp.finfo1 = s.finfo1 := rfl
@[simp] theorem State.endOp_busy (s : State) :
    s.endOp.busy = false := rfl
@[simp] theorem State.endOp_terr (s : State) :
    s.endOp.terr = s.terr := rfl
@[simp] theorem State.endOp_pkt (s : State) :
    s.endOp.pkt = s.pkt := rfl
@[simp] theorem State.endOp_cur (s : State) :
    s.endOp.cur = none := rfl
@[simp] theorem State.endOp_seqIdx (s : State) :
    s.endOp.seqIdx = 0 := rfl
@[simp] theorem State.endOp_waiting (s : State) :
    s.endOp.waiting = false := rfl
@[simp] theorem State.endOp_trace (s : State) :
    s.endOp.trace = s.trace := rfl
@[simp] theorem State.endOp_rst (s : State) :
    s.endOp.rst = s.rst := rfl
@[simp] theorem State.endOp_cmdIn (s : State) :
    s.endOp.cmdIn = s.cmdIn := rfl
@[simp] theorem State.endOp_busIn (s : State) :
    s.endOp.busIn = s.busIn := rfl

/-! `State.faulted` -/

@[simp] theorem State.faulted_cfg (s : State) (c : Cause) (a b : Byte) :
    (s.faulted c a b).cfg = s.cfg := rfl
@[simp] theorem State.faulted_epoch (s : State) (c : Cause) (a b : Byte) :
    (s.faulted c a b).epoch = s.epoch := rfl
@[simp] theorem State.faulted_fb (s : State) (c : Cause) (a b : Byte) :
    (s.faulted c a b).fb = s.fb := rfl
@[simp] theorem State.faulted_dcState (s : State) (c : Cause) (a b : Byte) :
    (s.faulted c a b).dcState = s.dcState := rfl
@[simp] theorem State.faulted_win (s : State) (c : Cause) (a b : Byte) :
    (s.faulted c a b).win = s.win := rfl
@[simp] theorem State.faulted_halt (s : State) (c : Cause) (a b : Byte) :
    (s.faulted c a b).halt = true := rfl
@[simp] theorem State.faulted_cause (s : State) (c : Cause) (a b : Byte) :
    (s.faulted c a b).cause = c.code := rfl
@[simp] theorem State.faulted_finfo0 (s : State) (c : Cause) (a b : Byte) :
    (s.faulted c a b).finfo0 = a := rfl
@[simp] theorem State.faulted_finfo1 (s : State) (c : Cause) (a b : Byte) :
    (s.faulted c a b).finfo1 = b := rfl
@[simp] theorem State.faulted_busy (s : State) (c : Cause) (a b : Byte) :
    (s.faulted c a b).busy = false := rfl
@[simp] theorem State.faulted_terr (s : State) (c : Cause) (a b : Byte) :
    (s.faulted c a b).terr = s.terr := rfl
@[simp] theorem State.faulted_pkt (s : State) (c : Cause) (a b : Byte) :
    (s.faulted c a b).pkt = s.pkt := rfl
@[simp] theorem State.faulted_cur (s : State) (c : Cause) (a b : Byte) :
    (s.faulted c a b).cur = none := rfl
@[simp] theorem State.faulted_seqIdx (s : State) (c : Cause) (a b : Byte) :
    (s.faulted c a b).seqIdx = 0 := rfl
@[simp] theorem State.faulted_waiting (s : State) (c : Cause) (a b : Byte) :
    (s.faulted c a b).waiting = false := rfl
@[simp] theorem State.faulted_trace (s : State) (c : Cause) (a b : Byte) :
    (s.faulted c a b).trace = s.trace := rfl
@[simp] theorem State.faulted_rst (s : State) (c : Cause) (a b : Byte) :
    (s.faulted c a b).rst = s.rst := rfl
@[simp] theorem State.faulted_cmdIn (s : State) (c : Cause) (a b : Byte) :
    (s.faulted c a b).cmdIn = s.cmdIn := rfl
@[simp] theorem State.faulted_busIn (s : State) (c : Cause) (a b : Byte) :
    (s.faulted c a b).busIn = s.busIn := rfl

/-! `State.emit` -/

@[simp] theorem State.emit_cfg (s : State) (t : Transaction) :
    (s.emit t).cfg = s.cfg := rfl
@[simp] theorem State.emit_epoch (s : State) (t : Transaction) :
    (s.emit t).epoch = s.epoch := rfl
@[simp] theorem State.emit_fb (s : State) (t : Transaction) :
    (s.emit t).fb = s.fb := rfl
@[simp] theorem State.emit_dcState (s : State) (t : Transaction) :
    (s.emit t).dcState = s.dcState := rfl
@[simp] theorem State.emit_win (s : State) (t : Transaction) :
    (s.emit t).win = s.win := rfl
@[simp] theorem State.emit_halt (s : State) (t : Transaction) :
    (s.emit t).halt = s.halt := rfl
@[simp] theorem State.emit_cause (s : State) (t : Transaction) :
    (s.emit t).cause = s.cause := rfl
@[simp] theorem State.emit_finfo0 (s : State) (t : Transaction) :
    (s.emit t).finfo0 = s.finfo0 := rfl
@[simp] theorem State.emit_finfo1 (s : State) (t : Transaction) :
    (s.emit t).finfo1 = s.finfo1 := rfl
@[simp] theorem State.emit_busy (s : State) (t : Transaction) :
    (s.emit t).busy = s.busy := rfl
@[simp] theorem State.emit_terr (s : State) (t : Transaction) :
    (s.emit t).terr = s.terr := rfl
@[simp] theorem State.emit_pkt (s : State) (t : Transaction) :
    (s.emit t).pkt = s.pkt := rfl
@[simp] theorem State.emit_cur (s : State) (t : Transaction) :
    (s.emit t).cur = s.cur := rfl
@[simp] theorem State.emit_seqIdx (s : State) (t : Transaction) :
    (s.emit t).seqIdx = s.seqIdx := rfl
@[simp] theorem State.emit_waiting (s : State) (t : Transaction) :
    (s.emit t).waiting = true := rfl
@[simp] theorem State.emit_trace (s : State) (t : Transaction) :
    (s.emit t).trace = s.trace ++ [t] := rfl
@[simp] theorem State.emit_rst (s : State) (t : Transaction) :
    (s.emit t).rst = s.rst := rfl
@[simp] theorem State.emit_cmdIn (s : State) (t : Transaction) :
    (s.emit t).cmdIn = s.cmdIn := rfl
@[simp] theorem State.emit_busIn (s : State) (t : Transaction) :
    (s.emit t).busIn = s.busIn := rfl

/-! `State.answered` -/

@[simp] theorem State.answered_cfg (s : State) (ok : Bool) (rest : List Bool) :
    (s.answered ok rest).cfg = s.cfg := rfl
@[simp] theorem State.answered_epoch (s : State) (ok : Bool) (rest : List Bool) :
    (s.answered ok rest).epoch = s.epoch := rfl
@[simp] theorem State.answered_fb (s : State) (ok : Bool) (rest : List Bool) :
    (s.answered ok rest).fb = s.fb := rfl
@[simp] theorem State.answered_dcState (s : State) (ok : Bool) (rest : List Bool) :
    (s.answered ok rest).dcState = s.dcState := rfl
@[simp] theorem State.answered_win (s : State) (ok : Bool) (rest : List Bool) :
    (s.answered ok rest).win = s.win := rfl
@[simp] theorem State.answered_halt (s : State) (ok : Bool) (rest : List Bool) :
    (s.answered ok rest).halt = s.halt := rfl
@[simp] theorem State.answered_cause (s : State) (ok : Bool) (rest : List Bool) :
    (s.answered ok rest).cause = s.cause := rfl
@[simp] theorem State.answered_finfo0 (s : State) (ok : Bool) (rest : List Bool) :
    (s.answered ok rest).finfo0 = s.finfo0 := rfl
@[simp] theorem State.answered_finfo1 (s : State) (ok : Bool) (rest : List Bool) :
    (s.answered ok rest).finfo1 = s.finfo1 := rfl
@[simp] theorem State.answered_busy (s : State) (ok : Bool) (rest : List Bool) :
    (s.answered ok rest).busy = s.busy := rfl
@[simp] theorem State.answered_terr (s : State) (ok : Bool) (rest : List Bool) :
    (s.answered ok rest).terr = terrAfter s.terr ok := rfl
@[simp] theorem State.answered_pkt (s : State) (ok : Bool) (rest : List Bool) :
    (s.answered ok rest).pkt = s.pkt := rfl
@[simp] theorem State.answered_cur (s : State) (ok : Bool) (rest : List Bool) :
    (s.answered ok rest).cur = s.cur := rfl
@[simp] theorem State.answered_seqIdx (s : State) (ok : Bool) (rest : List Bool) :
    (s.answered ok rest).seqIdx = s.seqIdx + 1 := rfl
@[simp] theorem State.answered_waiting (s : State) (ok : Bool) (rest : List Bool) :
    (s.answered ok rest).waiting = false := rfl
@[simp] theorem State.answered_trace (s : State) (ok : Bool) (rest : List Bool) :
    (s.answered ok rest).trace = s.trace := rfl
@[simp] theorem State.answered_rst (s : State) (ok : Bool) (rest : List Bool) :
    (s.answered ok rest).rst = s.rst := rfl
@[simp] theorem State.answered_cmdIn (s : State) (ok : Bool) (rest : List Bool) :
    (s.answered ok rest).cmdIn = s.cmdIn := rfl
@[simp] theorem State.answered_busIn (s : State) (ok : Bool) (rest : List Bool) :
    (s.answered ok rest).busIn = rest := rfl

/-! `State.waitIn` -/

@[simp] theorem State.waitIn_cfg (s : State) (i : Instr) :
    (s.waitIn i).cfg = s.cfg := rfl
@[simp] theorem State.waitIn_epoch (s : State) (i : Instr) :
    (s.waitIn i).epoch = s.epoch := rfl
@[simp] theorem State.waitIn_fb (s : State) (i : Instr) :
    (s.waitIn i).fb = s.fb := rfl
@[simp] theorem State.waitIn_dcState (s : State) (i : Instr) :
    (s.waitIn i).dcState = s.dcState := rfl
@[simp] theorem State.waitIn_win (s : State) (i : Instr) :
    (s.waitIn i).win = s.win := rfl
@[simp] theorem State.waitIn_halt (s : State) (i : Instr) :
    (s.waitIn i).halt = s.halt := rfl
@[simp] theorem State.waitIn_cause (s : State) (i : Instr) :
    (s.waitIn i).cause = s.cause := rfl
@[simp] theorem State.waitIn_finfo0 (s : State) (i : Instr) :
    (s.waitIn i).finfo0 = s.finfo0 := rfl
@[simp] theorem State.waitIn_finfo1 (s : State) (i : Instr) :
    (s.waitIn i).finfo1 = s.finfo1 := rfl
@[simp] theorem State.waitIn_busy (s : State) (i : Instr) :
    (s.waitIn i).busy = true := rfl
@[simp] theorem State.waitIn_terr (s : State) (i : Instr) :
    (s.waitIn i).terr = s.terr := rfl
@[simp] theorem State.waitIn_pkt (s : State) (i : Instr) :
    (s.waitIn i).pkt = s.pkt := rfl
@[simp] theorem State.waitIn_cur (s : State) (i : Instr) :
    (s.waitIn i).cur = some i := rfl
@[simp] theorem State.waitIn_seqIdx (s : State) (i : Instr) :
    (s.waitIn i).seqIdx = s.seqIdx := rfl
@[simp] theorem State.waitIn_waiting (s : State) (i : Instr) :
    (s.waitIn i).waiting = s.waiting := rfl
@[simp] theorem State.waitIn_trace (s : State) (i : Instr) :
    (s.waitIn i).trace = s.trace := rfl
@[simp] theorem State.waitIn_rst (s : State) (i : Instr) :
    (s.waitIn i).rst = s.rst := rfl
@[simp] theorem State.waitIn_cmdIn (s : State) (i : Instr) :
    (s.waitIn i).cmdIn = s.cmdIn := rfl
@[simp] theorem State.waitIn_busIn (s : State) (i : Instr) :
    (s.waitIn i).busIn = s.busIn := rfl

/-! `State.seqStart` -/

@[simp] theorem State.seqStart_cfg (s : State) :
    s.seqStart.cfg = s.cfg := rfl
@[simp] theorem State.seqStart_epoch (s : State) :
    s.seqStart.epoch = s.epoch := rfl
@[simp] theorem State.seqStart_fb (s : State) :
    s.seqStart.fb = s.fb := rfl
@[simp] theorem State.seqStart_dcState (s : State) :
    s.seqStart.dcState = s.dcState := rfl
@[simp] theorem State.seqStart_win (s : State) :
    s.seqStart.win = s.win := rfl
@[simp] theorem State.seqStart_halt (s : State) :
    s.seqStart.halt = s.halt := rfl
@[simp] theorem State.seqStart_cause (s : State) :
    s.seqStart.cause = s.cause := rfl
@[simp] theorem State.seqStart_finfo0 (s : State) :
    s.seqStart.finfo0 = s.finfo0 := rfl
@[simp] theorem State.seqStart_finfo1 (s : State) :
    s.seqStart.finfo1 = s.finfo1 := rfl
@[simp] theorem State.seqStart_busy (s : State) :
    s.seqStart.busy = s.busy := rfl
@[simp] theorem State.seqStart_terr (s : State) :
    s.seqStart.terr = s.terr := rfl
@[simp] theorem State.seqStart_pkt (s : State) :
    s.seqStart.pkt = s.pkt := rfl
@[simp] theorem State.seqStart_cur (s : State) :
    s.seqStart.cur = s.cur := rfl
@[simp] theorem State.seqStart_seqIdx (s : State) :
    s.seqStart.seqIdx = 0 := rfl
@[simp] theorem State.seqStart_waiting (s : State) :
    s.seqStart.waiting = s.waiting := rfl
@[simp] theorem State.seqStart_trace (s : State) :
    s.seqStart.trace = s.trace := rfl
@[simp] theorem State.seqStart_rst (s : State) :
    s.seqStart.rst = s.rst := rfl
@[simp] theorem State.seqStart_cmdIn (s : State) :
    s.seqStart.cmdIn = s.cmdIn := rfl
@[simp] theorem State.seqStart_busIn (s : State) :
    s.seqStart.busIn = s.busIn := rfl

/-! `State.sent` -/

@[simp] theorem State.sent_cfg (s : State) (ts : List Transaction) :
    (s.sent ts).cfg = s.cfg := rfl
@[simp] theorem State.sent_epoch (s : State) (ts : List Transaction) :
    (s.sent ts).epoch = s.epoch := rfl
@[simp] theorem State.sent_fb (s : State) (ts : List Transaction) :
    (s.sent ts).fb = s.fb := rfl
@[simp] theorem State.sent_dcState (s : State) (ts : List Transaction) :
    (s.sent ts).dcState = s.dcState := rfl
@[simp] theorem State.sent_win (s : State) (ts : List Transaction) :
    (s.sent ts).win = s.win := rfl
@[simp] theorem State.sent_halt (s : State) (ts : List Transaction) :
    (s.sent ts).halt = s.halt := rfl
@[simp] theorem State.sent_cause (s : State) (ts : List Transaction) :
    (s.sent ts).cause = s.cause := rfl
@[simp] theorem State.sent_finfo0 (s : State) (ts : List Transaction) :
    (s.sent ts).finfo0 = s.finfo0 := rfl
@[simp] theorem State.sent_finfo1 (s : State) (ts : List Transaction) :
    (s.sent ts).finfo1 = s.finfo1 := rfl
@[simp] theorem State.sent_busy (s : State) (ts : List Transaction) :
    (s.sent ts).busy = s.busy := rfl
@[simp] theorem State.sent_terr (s : State) (ts : List Transaction) :
    (s.sent ts).terr = (s.terr || (s.busIn.take ts.length).any (!·)) := rfl
@[simp] theorem State.sent_pkt (s : State) (ts : List Transaction) :
    (s.sent ts).pkt = s.pkt := rfl
@[simp] theorem State.sent_cur (s : State) (ts : List Transaction) :
    (s.sent ts).cur = s.cur := rfl
@[simp] theorem State.sent_seqIdx (s : State) (ts : List Transaction) :
    (s.sent ts).seqIdx = s.seqIdx := rfl
@[simp] theorem State.sent_waiting (s : State) (ts : List Transaction) :
    (s.sent ts).waiting = s.waiting := rfl
@[simp] theorem State.sent_trace (s : State) (ts : List Transaction) :
    (s.sent ts).trace = s.trace ++ ts := rfl
@[simp] theorem State.sent_rst (s : State) (ts : List Transaction) :
    (s.sent ts).rst = s.rst := rfl
@[simp] theorem State.sent_cmdIn (s : State) (ts : List Transaction) :
    (s.sent ts).cmdIn = s.cmdIn := rfl
@[simp] theorem State.sent_busIn (s : State) (ts : List Transaction) :
    (s.sent ts).busIn = s.busIn.drop ts.length := rfl

/-! `State.latched` -/

@[simp] theorem State.latched_cfg (s : State) (i : Instr) (rest : List Byte) :
    (s.latched i rest).cfg = s.cfg := rfl
@[simp] theorem State.latched_epoch (s : State) (i : Instr) (rest : List Byte) :
    (s.latched i rest).epoch = s.epoch := rfl
@[simp] theorem State.latched_fb (s : State) (i : Instr) (rest : List Byte) :
    (s.latched i rest).fb = s.fb := rfl
@[simp] theorem State.latched_dcState (s : State) (i : Instr) (rest : List Byte) :
    (s.latched i rest).dcState = s.dcState := rfl
@[simp] theorem State.latched_win (s : State) (i : Instr) (rest : List Byte) :
    (s.latched i rest).win = s.win := rfl
@[simp] theorem State.latched_halt (s : State) (i : Instr) (rest : List Byte) :
    (s.latched i rest).halt = s.halt := rfl
@[simp] theorem State.latched_cause (s : State) (i : Instr) (rest : List Byte) :
    (s.latched i rest).cause = s.cause := rfl
@[simp] theorem State.latched_finfo0 (s : State) (i : Instr) (rest : List Byte) :
    (s.latched i rest).finfo0 = s.finfo0 := rfl
@[simp] theorem State.latched_finfo1 (s : State) (i : Instr) (rest : List Byte) :
    (s.latched i rest).finfo1 = s.finfo1 := rfl
@[simp] theorem State.latched_busy (s : State) (i : Instr) (rest : List Byte) :
    (s.latched i rest).busy = true := rfl
@[simp] theorem State.latched_terr (s : State) (i : Instr) (rest : List Byte) :
    (s.latched i rest).terr = s.terr := rfl
@[simp] theorem State.latched_pkt (s : State) (i : Instr) (rest : List Byte) :
    (s.latched i rest).pkt = [] := rfl
@[simp] theorem State.latched_cur (s : State) (i : Instr) (rest : List Byte) :
    (s.latched i rest).cur = some i := rfl
@[simp] theorem State.latched_seqIdx (s : State) (i : Instr) (rest : List Byte) :
    (s.latched i rest).seqIdx = s.seqIdx := rfl
@[simp] theorem State.latched_waiting (s : State) (i : Instr) (rest : List Byte) :
    (s.latched i rest).waiting = s.waiting := rfl
@[simp] theorem State.latched_trace (s : State) (i : Instr) (rest : List Byte) :
    (s.latched i rest).trace = s.trace := rfl
@[simp] theorem State.latched_rst (s : State) (i : Instr) (rest : List Byte) :
    (s.latched i rest).rst = s.rst := rfl
@[simp] theorem State.latched_cmdIn (s : State) (i : Instr) (rest : List Byte) :
    (s.latched i rest).cmdIn = rest := rfl
@[simp] theorem State.latched_busIn (s : State) (i : Instr) (rest : List Byte) :
    (s.latched i rest).busIn = s.busIn := rfl

/-! `State.dropped` -/

@[simp] theorem State.dropped_cfg (s : State) (rest : List Byte) :
    (s.dropped rest).cfg = s.cfg := rfl
@[simp] theorem State.dropped_epoch (s : State) (rest : List Byte) :
    (s.dropped rest).epoch = s.epoch := rfl
@[simp] theorem State.dropped_fb (s : State) (rest : List Byte) :
    (s.dropped rest).fb = s.fb := rfl
@[simp] theorem State.dropped_dcState (s : State) (rest : List Byte) :
    (s.dropped rest).dcState = s.dcState := rfl
@[simp] theorem State.dropped_win (s : State) (rest : List Byte) :
    (s.dropped rest).win = s.win := rfl
@[simp] theorem State.dropped_halt (s : State) (rest : List Byte) :
    (s.dropped rest).halt = s.halt := rfl
@[simp] theorem State.dropped_cause (s : State) (rest : List Byte) :
    (s.dropped rest).cause = s.cause := rfl
@[simp] theorem State.dropped_finfo0 (s : State) (rest : List Byte) :
    (s.dropped rest).finfo0 = s.finfo0 := rfl
@[simp] theorem State.dropped_finfo1 (s : State) (rest : List Byte) :
    (s.dropped rest).finfo1 = s.finfo1 := rfl
@[simp] theorem State.dropped_busy (s : State) (rest : List Byte) :
    (s.dropped rest).busy = s.busy := rfl
@[simp] theorem State.dropped_terr (s : State) (rest : List Byte) :
    (s.dropped rest).terr = s.terr := rfl
@[simp] theorem State.dropped_pkt (s : State) (rest : List Byte) :
    (s.dropped rest).pkt = [] := rfl
@[simp] theorem State.dropped_cur (s : State) (rest : List Byte) :
    (s.dropped rest).cur = s.cur := rfl
@[simp] theorem State.dropped_seqIdx (s : State) (rest : List Byte) :
    (s.dropped rest).seqIdx = s.seqIdx := rfl
@[simp] theorem State.dropped_waiting (s : State) (rest : List Byte) :
    (s.dropped rest).waiting = s.waiting := rfl
@[simp] theorem State.dropped_trace (s : State) (rest : List Byte) :
    (s.dropped rest).trace = s.trace := rfl
@[simp] theorem State.dropped_rst (s : State) (rest : List Byte) :
    (s.dropped rest).rst = s.rst := rfl
@[simp] theorem State.dropped_cmdIn (s : State) (rest : List Byte) :
    (s.dropped rest).cmdIn = rest := rfl
@[simp] theorem State.dropped_busIn (s : State) (rest : List Byte) :
    (s.dropped rest).busIn = s.busIn := rfl

/-! `State.resetNow` -/

@[simp] theorem State.resetNow_cfg (s : State) :
    s.resetNow.cfg = s.cfg := rfl
@[simp] theorem State.resetNow_epoch (s : State) :
    s.resetNow.epoch = s.epoch + 1 := rfl
@[simp] theorem State.resetNow_fb (s : State) :
    s.resetNow.fb = freshFb s.cfg (s.epoch + 1) := rfl
@[simp] theorem State.resetNow_dcState (s : State) :
    s.resetNow.dcState = .uninitialized := rfl
@[simp] theorem State.resetNow_win (s : State) :
    s.resetNow.win = Window.full s.cfg := rfl
@[simp] theorem State.resetNow_halt (s : State) :
    s.resetNow.halt = false := rfl
@[simp] theorem State.resetNow_cause (s : State) :
    s.resetNow.cause = 0 := rfl
@[simp] theorem State.resetNow_finfo0 (s : State) :
    s.resetNow.finfo0 = 0 := rfl
@[simp] theorem State.resetNow_finfo1 (s : State) :
    s.resetNow.finfo1 = 0 := rfl
@[simp] theorem State.resetNow_busy (s : State) :
    s.resetNow.busy = false := rfl
@[simp] theorem State.resetNow_terr (s : State) :
    s.resetNow.terr = false := rfl
@[simp] theorem State.resetNow_pkt (s : State) :
    s.resetNow.pkt = [] := rfl
@[simp] theorem State.resetNow_cur (s : State) :
    s.resetNow.cur = none := rfl
@[simp] theorem State.resetNow_seqIdx (s : State) :
    s.resetNow.seqIdx = 0 := rfl
@[simp] theorem State.resetNow_waiting (s : State) :
    s.resetNow.waiting = false := rfl
@[simp] theorem State.resetNow_trace (s : State) :
    s.resetNow.trace = [] := rfl
@[simp] theorem State.resetNow_rst (s : State) :
    s.resetNow.rst = false := rfl
@[simp] theorem State.resetNow_cmdIn (s : State) :
    s.resetNow.cmdIn = s.cmdIn := rfl
@[simp] theorem State.resetNow_busIn (s : State) :
    s.resetNow.busIn = s.busIn := rfl

/-! `State.offer` -/

@[simp] theorem State.offer_cfg (s : State) (bytes : List Byte) :
    (s.offer bytes).cfg = s.cfg := rfl
@[simp] theorem State.offer_epoch (s : State) (bytes : List Byte) :
    (s.offer bytes).epoch = s.epoch := rfl
@[simp] theorem State.offer_fb (s : State) (bytes : List Byte) :
    (s.offer bytes).fb = s.fb := rfl
@[simp] theorem State.offer_dcState (s : State) (bytes : List Byte) :
    (s.offer bytes).dcState = s.dcState := rfl
@[simp] theorem State.offer_win (s : State) (bytes : List Byte) :
    (s.offer bytes).win = s.win := rfl
@[simp] theorem State.offer_halt (s : State) (bytes : List Byte) :
    (s.offer bytes).halt = s.halt := rfl
@[simp] theorem State.offer_cause (s : State) (bytes : List Byte) :
    (s.offer bytes).cause = s.cause := rfl
@[simp] theorem State.offer_finfo0 (s : State) (bytes : List Byte) :
    (s.offer bytes).finfo0 = s.finfo0 := rfl
@[simp] theorem State.offer_finfo1 (s : State) (bytes : List Byte) :
    (s.offer bytes).finfo1 = s.finfo1 := rfl
@[simp] theorem State.offer_busy (s : State) (bytes : List Byte) :
    (s.offer bytes).busy = s.busy := rfl
@[simp] theorem State.offer_terr (s : State) (bytes : List Byte) :
    (s.offer bytes).terr = s.terr := rfl
@[simp] theorem State.offer_pkt (s : State) (bytes : List Byte) :
    (s.offer bytes).pkt = s.pkt := rfl
@[simp] theorem State.offer_cur (s : State) (bytes : List Byte) :
    (s.offer bytes).cur = s.cur := rfl
@[simp] theorem State.offer_seqIdx (s : State) (bytes : List Byte) :
    (s.offer bytes).seqIdx = s.seqIdx := rfl
@[simp] theorem State.offer_waiting (s : State) (bytes : List Byte) :
    (s.offer bytes).waiting = s.waiting := rfl
@[simp] theorem State.offer_trace (s : State) (bytes : List Byte) :
    (s.offer bytes).trace = s.trace := rfl
@[simp] theorem State.offer_rst (s : State) (bytes : List Byte) :
    (s.offer bytes).rst = s.rst := rfl
@[simp] theorem State.offer_cmdIn (s : State) (bytes : List Byte) :
    (s.offer bytes).cmdIn = s.cmdIn ++ bytes := rfl
@[simp] theorem State.offer_busIn (s : State) (bytes : List Byte) :
    (s.offer bytes).busIn = s.busIn := rfl

/-! `State.answer` -/

@[simp] theorem State.answer_cfg (s : State) (oks : List Bool) :
    (s.answer oks).cfg = s.cfg := rfl
@[simp] theorem State.answer_epoch (s : State) (oks : List Bool) :
    (s.answer oks).epoch = s.epoch := rfl
@[simp] theorem State.answer_fb (s : State) (oks : List Bool) :
    (s.answer oks).fb = s.fb := rfl
@[simp] theorem State.answer_dcState (s : State) (oks : List Bool) :
    (s.answer oks).dcState = s.dcState := rfl
@[simp] theorem State.answer_win (s : State) (oks : List Bool) :
    (s.answer oks).win = s.win := rfl
@[simp] theorem State.answer_halt (s : State) (oks : List Bool) :
    (s.answer oks).halt = s.halt := rfl
@[simp] theorem State.answer_cause (s : State) (oks : List Bool) :
    (s.answer oks).cause = s.cause := rfl
@[simp] theorem State.answer_finfo0 (s : State) (oks : List Bool) :
    (s.answer oks).finfo0 = s.finfo0 := rfl
@[simp] theorem State.answer_finfo1 (s : State) (oks : List Bool) :
    (s.answer oks).finfo1 = s.finfo1 := rfl
@[simp] theorem State.answer_busy (s : State) (oks : List Bool) :
    (s.answer oks).busy = s.busy := rfl
@[simp] theorem State.answer_terr (s : State) (oks : List Bool) :
    (s.answer oks).terr = s.terr := rfl
@[simp] theorem State.answer_pkt (s : State) (oks : List Bool) :
    (s.answer oks).pkt = s.pkt := rfl
@[simp] theorem State.answer_cur (s : State) (oks : List Bool) :
    (s.answer oks).cur = s.cur := rfl
@[simp] theorem State.answer_seqIdx (s : State) (oks : List Bool) :
    (s.answer oks).seqIdx = s.seqIdx := rfl
@[simp] theorem State.answer_waiting (s : State) (oks : List Bool) :
    (s.answer oks).waiting = s.waiting := rfl
@[simp] theorem State.answer_trace (s : State) (oks : List Bool) :
    (s.answer oks).trace = s.trace := rfl
@[simp] theorem State.answer_rst (s : State) (oks : List Bool) :
    (s.answer oks).rst = s.rst := rfl
@[simp] theorem State.answer_cmdIn (s : State) (oks : List Bool) :
    (s.answer oks).cmdIn = s.cmdIn := rfl
@[simp] theorem State.answer_busIn (s : State) (oks : List Bool) :
    (s.answer oks).busIn = s.busIn ++ oks := rfl

end Sys2Proof.Machine
end

