-- ==== Sys2Proof/Laws/Bus.lean ====
section
/-! SUPPORT. What sending does, said once: everything answered, or left waiting. -/

namespace Sys2Proof.Machine

@[simp] theorem cmdTransactions_length (l : List Byte) : (cmdTransactions l).length = l.length := by
  simp [cmdTransactions]

@[simp] theorem initTransactions_length (cfg : Config.Build) : (initTransactions cfg).length = 26 := rfl

@[simp] theorem scrollTransactions_length (cfg : Config.Build) (en : Byte) :
    (scrollTransactions cfg en).length = 8 := rfl

/-- With an answer for every transaction, all are sent and the operation ends. -/
theorem sendAll_enough (i : Instr) (done : State → State)
    (hdone : ∀ u v : State, u.endOp = v.endOp → (done u).endOp = (done v).endOp)
    (ts : List Transaction) (s : State) (h : ts.length ≤ s.busIn.length) :
    sendAll i done ts s = .next (done (s.sent ts)).endOp := by
  induction ts generalizing s with
  | nil =>
    simp only [sendAll]
    refine congrArg _ (hdone _ _ ?_)
    simp [State.sent, State.endOp]
  | cons t ts ih =>
    simp only [List.length_cons] at h
    simp only [sendAll]
    match hb : s.busIn with
    | [] => simp [hb] at h
    | ok :: rest =>
      simp only
      rw [ih _ (by simpa [hb] using h)]
      refine congrArg _ (hdone _ _ ?_)
      simp [State.sent, State.endOp, State.answered, State.emit, hb, terrAfter, Bool.or_assoc]

/-- With too few answers, the first unanswered transaction is in flight and the operation waits. -/
theorem sendAll_short (i : Instr) (done : State → State) (ts : List Transaction) (s : State)
    (h : s.busIn.length < ts.length) :
    sendAll i done ts s = .next
      { s with
        trace := s.trace ++ ts.take (s.busIn.length + 1), busIn := []
        terr := s.terr || s.busIn.any (!·), seqIdx := s.seqIdx + s.busIn.length
        waiting := true, busy := true, cur := some i } := by
  induction ts generalizing s with
  | nil => simp at h
  | cons t ts ih =>
    simp only [List.length_cons] at h
    simp only [sendAll]
    match hb : s.busIn with
    | [] => simp [State.emit, State.waitIn, hb]
    | ok :: rest =>
      simp only [hb, List.length_cons] at h
      simp only
      rw [ih _ (by simpa using h)]
      simp [State.emit, State.answered, terrAfter, Bool.or_assoc, Nat.add_comm,
        Nat.add_left_comm]

/-- The end states of operations depend on what an ended operation keeps. -/
theorem afterLast_endOp (i : Instr) (u v : State) (h : u.endOp = v.endOp) :
    (afterLast i u).endOp = (afterLast i v).endOp := by
  cases i <;> first | exact h | (simp only [State.endOp, State.mk.injEq, afterLast, State.setReady] at *; simp_all)

/-- INIT alone changes more than the bus state when its last transaction is answered (rule R163). -/
theorem afterLast_cases (i : Instr) (s : State) :
    (i ≠ .init ∧ afterLast i s = s) ∨ (i = .init ∧ afterLast i s = s.setReady) := by
  cases i <;> simp [afterLast]

/-- What `sendStart` does when every transaction is answered. -/
theorem sendStart_enough (i : Instr) (s : State) (ts : List Transaction)
    (ht : transactions s i = some ts) (h : ts.length ≤ s.busIn.length) :
    sendStart i s = .next (afterLast i (s.sent ts)).endOp := by
  simp only [sendStart, ht]
  rw [sendAll_enough i _ (afterLast_endOp i) ts _ (by simpa using h)]
  exact congrArg _ (afterLast_endOp i _ _ rfl)

/-- What `sendStart` does when the bus stops answering. -/
theorem sendStart_short (i : Instr) (s : State) (ts : List Transaction)
    (ht : transactions s i = some ts) (h : s.busIn.length < ts.length) :
    sendStart i s = .next
      { s with
        trace := s.trace ++ ts.take (s.busIn.length + 1), busIn := []
        terr := s.terr || s.busIn.any (!·), seqIdx := s.busIn.length
        waiting := true, busy := true, cur := some i } := by
  simp only [sendStart, ht]
  rw [sendAll_short i _ ts _ (by simpa using h)]
  simp [State.seqStart]

/-- What an instruction sends depends on the build, the window and the framebuffer alone. -/
theorem transactions_congr (i : Instr) (s t : State) (hc : s.cfg = t.cfg) (hw : s.win = t.win)
    (hf : s.fb = t.fb) : transactions s i = transactions t i := by
  cases i <;> simp [transactions, renderTransactions, renderPayload, hc, hw, hf]

end Sys2Proof.Machine
end

