-- ==== Sys2Proof/Laws/Decode.lean ====
section
/-! SUPPORT. What the packet decoder does with the bytes after an opcode, said once. -/

namespace Sys2Proof

/-- The opcode bytes (rule R82) and no others (rule R85). -/
theorem hostOp?_eq_none (b : Byte) : hostOp? b = none ↔ b = 0x00 ∨ 0x09 ≤ b.toNat := by
  revert b
  decide

theorem hostOp?_eq_some (b : Byte) (op : HostOp) :
    hostOp? b = some op ↔ (b, op) ∈ hostOpTable := by
  cases op <;> revert b <;> decide

/-- No packet is empty. -/
theorem decode_nil : decode [] = .incomplete := rfl

/-- An opcode byte that encodes no operation is rejected whatever follows. -/
theorem decode_illegal {b : Byte} (h : hostOp? b = none) (rest : List Byte) :
    decode (b :: rest) = .illegalOpcode b rest := by simp [decode, h]

/-- A string length byte holds the length of a string that fits. -/
theorem lenByte_toNat {str : List Byte} (h : strFits str = true) :
    (BitVec.ofNat 8 str.length).toNat = str.length := by
  simp only [strFits, decide_eq_true_eq] at h
  simp only [BitVec.toNat_ofNat]
  omega

end Sys2Proof
end

