-- ==== Sys2Proof/Laws/Memory.lean ====
section
/-! SUPPORT. The laws of the framebuffer cells: read after write, the canonical form, and what a
slice holds. -/

namespace Sys2Proof.Machine

open Config

@[simp] theorem Memory.read_write_same (m : Memory) (a : Nat) (b : Byte) :
    (m.write a b).read a = some b := by
  induction m with
  | nil => simp [Memory.write, Memory.read]
  | cons c m ih =>
    obtain ⟨k, c⟩ := c
    simp only [Memory.write]
    split_ifs with h1 h2
    · simp [Memory.read]
    · simp [Memory.read]
    · simp [Memory.read, h2, ih]

theorem Memory.read_write_ne (m : Memory) (a a' : Nat) (b : Byte) (h : a' ≠ a) :
    (m.write a b).read a' = m.read a' := by
  induction m with
  | nil => simp [Memory.write, Memory.read, h]
  | cons c m ih =>
    obtain ⟨k, c⟩ := c
    simp only [Memory.write]
    split_ifs with h1 h2
    · simp [Memory.read, h]
    · subst h2; simp [Memory.read, h]
    · simp [Memory.read, ih]

/-- The canonical form, as an equation. -/
theorem Memory.wf_iff (n : Nat) (m : Memory) : m.wf n = true ↔ m.map Prod.fst = List.range' 0 n := by
  simp [Memory.wf, List.range_eq_range']

/-- Cells that start at `k`, without a gap: a write inside keeps the indices. -/
theorem Memory.write_keys (m : Memory) (k n a : Nat) (b : Byte)
    (h : m.map Prod.fst = List.range' k n) (hk : k ≤ a) (hn : a < k + n) :
    (m.write a b).map Prod.fst = List.range' k n := by
  induction m generalizing k n with
  | nil =>
    cases n with
    | zero => omega
    | succ n => simp [List.range'_succ] at h
  | cons c m ih =>
    obtain ⟨k', c⟩ := c
    cases n with
    | zero => omega
    | succ n =>
      simp only [List.map_cons, List.range'_succ, List.cons.injEq] at h
      obtain ⟨rfl, h⟩ := h
      simp only [Memory.write]
      split_ifs with h1 h2
      · omega
      · simp [List.range'_succ, h, h2]
      · simp [List.range'_succ, ih (k' + 1) n h (by omega) (by omega)]

theorem Memory.wf_write {n : Nat} {m : Memory} (h : m.wf n = true) {a : Nat} (ha : a < n) (b : Byte) :
    (m.write a b).wf n = true := by
  rw [Memory.wf_iff] at *
  exact Memory.write_keys m 0 n a b h (by omega) (by omega)

theorem Memory.wf_map_range (n : Nat) (f : Nat → Byte) :
    Memory.wf n ((List.range n).map fun a => (a, f a)) = true := by
  simp only [Memory.wf, List.map_map, beq_iff_eq]
  exact List.map_id _

theorem Memory.wf_zeros (n : Nat) : (Memory.zeros n).wf n = true :=
  Memory.wf_map_range n fun _ => 0x00

theorem wf_freshFb (cfg : Build) (epoch : Nat) : (freshFb cfg epoch).wf cfg.fbLen = true :=
  Memory.wf_map_range cfg.fbLen (fbReset epoch)

theorem Memory.read_map_range' (f : Nat → Byte) (k n a : Nat) :
    Memory.read ((List.range' k n).map fun a => (a, f a)) a =
      if k ≤ a ∧ a < k + n then some (f a) else none := by
  induction n generalizing k with
  | zero =>
    rw [if_neg (by omega)]
    simp [Memory.read]
  | succ n ih =>
    simp only [List.range'_succ, List.map_cons, Memory.read, ih]
    split_ifs with h1 h2 h3 h4 h5 <;> first | omega | rfl | (subst h1; rfl)

theorem Memory.read_map_range (f : Nat → Byte) (n a : Nat) :
    Memory.read ((List.range n).map fun a => (a, f a)) a = if a < n then some (f a) else none := by
  simp [List.range_eq_range', Memory.read_map_range']

theorem Memory.read_zeros (n a : Nat) :
    (Memory.zeros n).read a = if a < n then some 0x00 else none :=
  Memory.read_map_range (fun _ => 0x00) n a

theorem read_freshFb (cfg : Build) (epoch a : Nat) :
    (freshFb cfg epoch).read a = if a < cfg.fbLen then some (fbReset epoch a) else none :=
  Memory.read_map_range (fbReset epoch) cfg.fbLen a

/-- Cells that start at `k`, without a gap: an index inside has a byte. -/
theorem Memory.read_of_keys (m : Memory) (k n a : Nat) (h : m.map Prod.fst = List.range' k n)
    (hk : k ≤ a) (hn : a < k + n) : ∃ b, m.read a = some b := by
  induction m generalizing k n with
  | nil =>
    cases n with
    | zero => omega
    | succ n => simp [List.range'_succ] at h
  | cons c m ih =>
    obtain ⟨k', c⟩ := c
    cases n with
    | zero => omega
    | succ n =>
      simp only [List.map_cons, List.range'_succ, List.cons.injEq] at h
      obtain ⟨rfl, h⟩ := h
      by_cases h1 : a = k'
      · exact ⟨c, by simp [Memory.read, h1]⟩
      · obtain ⟨b, hb⟩ := ih (k' + 1) n h (by omega) (by omega)
        exact ⟨b, by simp [Memory.read, h1, hb]⟩

theorem Memory.read_of_wf {n : Nat} {m : Memory} (h : m.wf n = true) {a : Nat} (ha : a < n) :
    ∃ b, m.read a = some b :=
  Memory.read_of_keys m 0 n a ((Memory.wf_iff n m).1 h) (by omega) (by omega)

/-- An index below the first cell has no byte. -/
theorem Memory.read_below (m : Memory) (k n a : Nat) (h : m.map Prod.fst = List.range' k n)
    (ha : a < k) : m.read a = none := by
  induction m generalizing k n with
  | nil => rfl
  | cons c m ih =>
    obtain ⟨k', c⟩ := c
    cases n with
    | zero => simp at h
    | succ n =>
      simp only [List.map_cons, List.range'_succ, List.cons.injEq] at h
      obtain ⟨rfl, h⟩ := h
      rw [Memory.read, if_neg (by omega)]
      exact ih (k' + 1) n h (by omega)

/-- A slice inside the cells holds exactly the bytes that single reads give. -/
theorem Memory.slice_of_keys (m : Memory) (k l a n : Nat) (h : m.map Prod.fst = List.range' k l)
    (hk : k ≤ a) (hn : a + n ≤ k + l) :
    ∃ p, m.slice a n = some p ∧ p.length = n ∧ ∀ j < n, m.read (a + j) = p[j]? := by
  induction m generalizing k l a n with
  | nil =>
    cases n with
    | zero => exact ⟨[], by simp [Memory.slice]⟩
    | succ n =>
      cases l with
      | zero => omega
      | succ l => simp [List.range'_succ] at h
  | cons c m ih =>
    obtain ⟨k', c⟩ := c
    cases n with
    | zero => exact ⟨[], by simp [Memory.slice]⟩
    | succ n =>
      cases l with
      | zero => omega
      | succ l =>
        simp only [List.map_cons, List.range'_succ, List.cons.injEq] at h
        obtain ⟨rfl, h⟩ := h
        by_cases h1 : k' = a
        · subst h1
          obtain ⟨p, hp, hl, hr⟩ := ih (k' + 1) l (k' + 1) n h (by omega) (by omega)
          refine ⟨c :: p, by simp [Memory.slice, hp], by simp [hl], fun j hj => ?_⟩
          cases j with
          | zero => simp [Memory.read]
          | succ j =>
            have := hr j (by omega)
            simp only [Memory.read, List.getElem?_cons_succ]
            rw [if_neg (by omega), ← this]
            congr 1
            omega
        · obtain ⟨p, hp, hl, hr⟩ := ih (k' + 1) l a (n + 1) h (by omega) (by omega)
          refine ⟨p, by simp [Memory.slice, h1, hp], hl, fun j hj => ?_⟩
          rw [Memory.read, if_neg (by omega)]
          exact hr j hj

theorem Memory.slice_eq_reads {l : Nat} {m : Memory} (h : m.wf l = true) {a n : Nat}
    (hn : a + n ≤ l) :
    ∃ p, m.slice a n = some p ∧ p.length = n ∧ ∀ j < n, m.read (a + j) = p[j]? :=
  Memory.slice_of_keys m 0 l a n ((Memory.wf_iff l m).1 h) (by omega) (by omega)

/-- Of two writes to one index the second counts. -/
theorem Memory.write_write_same (m : Memory) (a : Nat) (b c : Byte) :
    (m.write a b).write a c = m.write a c := by
  induction m with
  | nil => simp [Memory.write]
  | cons d m ih =>
    obtain ⟨k, d⟩ := d
    simp only [Memory.write]
    split_ifs with h1 h2
    · simp [Memory.write]
    · simp [Memory.write]
    · simp [Memory.write, h1, h2, ih]

theorem Memory.write_comm_of_keys (m : Memory) (k n a a' : Nat) (b c : Byte)
    (h : m.map Prod.fst = List.range' k n) (ha : k ≤ a ∧ a < k + n) (ha' : k ≤ a' ∧ a' < k + n)
    (hne : a ≠ a') : (m.write a b).write a' c = (m.write a' c).write a b := by
  induction m generalizing k n with
  | nil =>
    cases n with
    | zero => omega
    | succ n => simp [List.range'_succ] at h
  | cons d m ih =>
    obtain ⟨k', d⟩ := d
    cases n with
    | zero => omega
    | succ n =>
      simp only [List.map_cons, List.range'_succ, List.cons.injEq] at h
      obtain ⟨rfl, h⟩ := h
      have h1 : ¬a < k' := by omega
      have h2 : ¬a' < k' := by omega
      by_cases h3 : a = k' <;> by_cases h4 : a' = k'
      · omega
      · subst h3; simp [Memory.write, h2, h4]
      · subst h4; simp [Memory.write, h1, h3]
      · simp [Memory.write, h1, h2, h3, h4, ih (k' + 1) n h (by omega) (by omega)]

/-- Writes to two different indices that exist commute. -/
theorem Memory.write_comm {n : Nat} {m : Memory} (h : m.wf n = true) {a a' : Nat} (ha : a < n)
    (ha' : a' < n) (hne : a ≠ a') (b c : Byte) :
    (m.write a b).write a' c = (m.write a' c).write a b :=
  Memory.write_comm_of_keys m 0 n a a' b c ((Memory.wf_iff n m).1 h) (by omega) (by omega) hne

end Sys2Proof.Machine
end

