-- ==== Sys2Proof/Laws/Pixel.lean ====
section
/-! SUPPORT. What the pixel mux does, said once. -/

namespace Sys2Proof.Machine

open Config

theorem pages_mul_eight (g : Geometry) : g.pages * 8 = g.height := by cases g <;> rfl

theorem fbLen_eq (g : Geometry) : g.fbLen = g.pages * 128 := rfl

/-- Rule R51: the byte of a point of the display exists. -/
theorem byteIndex_lt (cfg : Build) (x y : Nat) (hx : x < width) (hy : y < cfg.height) :
    byteIndex x y < cfg.fbLen := by
  have h := pages_mul_eight cfg.geom
  have h' := fbLen_eq cfg.geom
  simp only [byteIndex, flatIndex, pageOf, width, Build.height, Build.fbLen] at *
  omega

/-- Rule R51: points with the same byte are in the same column of the same page. -/
theorem byteIndex_inj {x y x' y' : Nat} (hx : x < width) (hx' : x' < width)
    (h : byteIndex x y = byteIndex x' y') : x = x' ∧ y / 8 = y' / 8 := by
  simp only [byteIndex, flatIndex, pageOf, width] at *
  omega

theorem fbWrite_of_lt {s : State} {a : Nat} (b : Byte) (h : a < s.cfg.fbLen) :
    fbWrite a b s = .go (s.setFb (s.fb.write a b)) := by simp [fbWrite, h]

theorem inRange_nat (cfg : Build) (x y : Nat) :
    inRange cfg x y = true ↔ x < width ∧ y < cfg.height := by
  simp [inRange]

theorem inRange_iff (cfg : Build) (x y : Int) :
    inRange cfg x y = true ↔ 0 ≤ x ∧ x < width ∧ 0 ≤ y ∧ y < cfg.height := by
  simp [inRange, and_assoc]

/-- `SetPixel` inside the display, when the byte is there. -/
theorem setPixel_of_read {s : State} {x y : Nat} {b : Byte} (on : Bool) (hx : x < width)
    (hy : y < s.cfg.height) (hb : s.fbRead (byteIndex x y) = some b) :
    setPixel x y on s =
      .go (s.setFb (s.fb.write (byteIndex x y) (pixelByte b (bitMask y) on))) := by
  simp [setPixel, (inRange_nat s.cfg x y).2 ⟨hx, hy⟩, plot, hb,
    fbWrite_of_lt _ (byteIndex_lt s.cfg x y hx hy)]

/-- `SetPixel` inside the display, when `FB` has its canonical form. -/
theorem setPixel_in {s : State} {x y : Nat} (on : Bool) (hf : s.fb.wf s.cfg.fbLen = true)
    (hx : x < width) (hy : y < s.cfg.height) :
    ∃ b, s.fbRead (byteIndex x y) = some b ∧
      setPixel x y on s =
        .go (s.setFb (s.fb.write (byteIndex x y) (pixelByte b (bitMask y) on))) := by
  obtain ⟨b, hb⟩ := Memory.read_of_wf hf (byteIndex_lt s.cfg x y hx hy)
  exact ⟨b, hb, setPixel_of_read on hx hy hb⟩

/-- `SetPixel` outside the display. -/
theorem setPixel_out {s : State} {x y : Int} (on : Bool) (h : inRange s.cfg x y = false) :
    setPixel x y on s = .stop (raise .pixelRange (BitVec.ofInt 8 x) (BitVec.ofInt 8 y) s) := by
  simp [setPixel, h]

/-- The bit of a pixel in its byte (rule R113): the pixel is as asked, the other rows are kept. -/
theorem pixelByte_getLsbD (b : Byte) (y k : Nat) (on : Bool) (hk : k < 8) :
    (pixelByte b (bitMask y) on).getLsbD k = if k = y % 8 then on else b.getLsbD k := by
  have hy : y % 8 < 8 := Nat.mod_lt _ (by omega)
  have hm : (bitMask y).getLsbD k = decide (k = y % 8) := by
    simp only [bitMask]
    generalize y % 8 = r at *
    interval_cases r <;> interval_cases k <;> decide
  cases on
  · simp only [pixelByte, Bool.false_eq_true, if_false, BitVec.getLsbD_and, BitVec.getLsbD_not, hm]
    by_cases h : k = y % 8 <;> simp [h, hk, hy]
  · simp only [pixelByte, if_true, BitVec.getLsbD_or, hm]
    by_cases h : k = y % 8 <;> simp [h]

theorem State.pixel?_eq (s : State) (x y : Nat) :
    s.pixel? x y = (s.fb.read (byteIndex x y)).map fun (b : Byte) => b.getLsbD (y % 8) := by
  simp only [State.pixel?, State.fbRead]
  congr 1

/-- After one pixel is written, the pixels of the display (rule R113(a) and (c)). -/
theorem pixel?_after_write (s : State) (x y x' y' : Nat) (b : Byte) (on : Bool) (hx : x < width)
    (hx' : x' < width) (hb : s.fb.read (byteIndex x y) = some b) :
    (s.setFb (s.fb.write (byteIndex x y) (pixelByte b (bitMask y) on))).pixel? x' y' =
      if x' = x ∧ y' = y then some on else s.pixel? x' y' := by
  simp only [State.pixel?_eq, State.setFb_fb]
  by_cases hi : byteIndex x' y' = byteIndex x y
  · obtain ⟨rfl, hp⟩ := byteIndex_inj hx' hx hi
    rw [hi, Memory.read_write_same, hb]
    simp only [Option.map_some, pixelByte_getLsbD b y (y' % 8) on (Nat.mod_lt _ (by omega))]
    by_cases hy : y' = y
    · simp [hy]
    · have : ¬ y' % 8 = y % 8 := by omega
      simp [hy, this]
  · rw [Memory.read_write_ne _ _ _ _ hi, if_neg]
    rintro ⟨rfl, rfl⟩
    exact hi rfl

/-- A legal flag operand is `0x00` or `0x01` (rule R85(b)). -/
theorem flagLegal_iff (on : Byte) : flagLegal on = true ↔ on = 0x00 ∨ on = 0x01 := by
  revert on
  decide

theorem flagLegal_eq_false {on : Byte} (h0 : on ≠ 0x00) (h1 : on ≠ 0x01) : flagLegal on = false := by
  rw [← Bool.not_eq_true, flagLegal_iff]
  tauto

theorem flagBit_of_legal {on : Byte} (h : on = 0x00 ∨ on = 0x01) : flagBit on = (on == 0x01) := by
  rcases h with rfl | rfl <;> rfl

end Sys2Proof.Machine
end

