-- ==== Sys2Proof/Laws/Line.lean ====
section
/-! SUPPORT. The line walk: where it is after each step, and that it reaches the endpoint within its
bound (rules R132 and R133). -/

namespace Sys2Proof.Machine

open Config

theorem sign_mul_natAbs (v : Int) : sign v * (v.natAbs : Int) = v := by
  simp only [sign]
  split_ifs with h1 h2 <;> omega

theorem sign_eq_zero {v : Int} (h : sign v = 0) : v = 0 := by
  simp only [sign] at h
  split_ifs at h with h1 h2 <;> omega

/-- The walk after `i` steps in x and `j` steps in y: the point, the error term, and the bounds that
keep it on the line.  `a` is `dx` and `b` is `|dy|`. -/
structure WalkAt (p : LineParams) (x0 y0 a b i j : Int) (c : LinePoint) : Prop where
  dx : p.dx = a
  dy : p.dy = -b
  cx : c.cx = x0 + p.sx * i
  cy : c.cy = y0 + p.sy * j
  err : c.err = a * (j + 1) - b * (i + 1)
  i0 : 0 ≤ i
  ia : i ≤ a
  j0 : 0 ≤ j
  jb : j ≤ b
  xMajor : b ≤ a → -b ≤ 2 * c.err ∧ 2 * c.err ≤ 3 * a - 2 * b
  yMajor : a < b → 2 * a - 3 * b ≤ 2 * c.err ∧ 2 * c.err ≤ a

/-- How many steps the walk has made along its major axis. -/
def majorSteps (a b i j : Int) : Int := if b ≤ a then i else j

/-- On the major axis the walk is at the end only at the endpoint. -/
theorem WalkAt.major_end {p : LineParams} {x0 y0 a b i j : Int} {c : LinePoint}
    (h : WalkAt p x0 y0 a b i j c) (hm : majorSteps a b i j = max a b) : i = a ∧ j = b := by
  obtain ⟨-, -, -, -, he, hi0, hia, hj0, hjb, hx, hy⟩ := h
  simp only [majorSteps] at hm
  by_cases hab : b ≤ a
  · rw [if_pos hab, max_eq_left hab] at hm
    subst hm
    refine ⟨rfl, ?_⟩
    obtain ⟨h1, h2⟩ := hx hab
    rw [he] at h1 h2
    by_contra hne
    have hlt : j + 1 ≤ b := by omega
    nlinarith
  · rw [if_neg hab, max_eq_right (by omega)] at hm
    subst hm
    refine ⟨?_, rfl⟩
    obtain ⟨h1, h2⟩ := hy (by omega)
    rw [he] at h1 h2
    by_contra hne
    have hlt : i + 1 ≤ a := by omega
    nlinarith

/-- Both branches fire: a diagonal step. -/
theorem lineStep_xy {p : LineParams} {c : LinePoint} (hx : p.dy ≤ 2 * c.err)
    (hy : 2 * c.err ≤ p.dx) :
    lineStep p c = ⟨c.cx + p.sx, c.cy + p.sy, c.err + p.dy + p.dx⟩ := by
  simp [lineStep, hx, hy]

/-- The x-branch alone fires. -/
theorem lineStep_x {p : LineParams} {c : LinePoint} (hx : p.dy ≤ 2 * c.err)
    (hy : ¬2 * c.err ≤ p.dx) : lineStep p c = ⟨c.cx + p.sx, c.cy, c.err + p.dy⟩ := by
  simp [lineStep, hx, hy]

/-- The y-branch alone fires. -/
theorem lineStep_y {p : LineParams} {c : LinePoint} (hx : ¬p.dy ≤ 2 * c.err)
    (hy : 2 * c.err ≤ p.dx) : lineStep p c = ⟨c.cx, c.cy + p.sy, c.err + p.dx⟩ := by
  simp [lineStep, hx, hy]

/-- One iteration of rule R132: one step along the major axis, none or one along the minor one. -/
theorem WalkAt.step {p : LineParams} {x0 y0 a b i j : Int} {c : LinePoint}
    (h : WalkAt p x0 y0 a b i j c) (hne : ¬(i = a ∧ j = b)) :
    ∃ i' j', WalkAt p x0 y0 a b i' j' (lineStep p c) ∧
      majorSteps a b i' j' = majorSteps a b i j + 1 := by
  have hm : majorSteps a b i j ≠ max a b := fun e => hne (h.major_end e)
  obtain ⟨hdx, hdy, hcx, hcy, he, hi0, hia, hj0, hjb, hx, hy⟩ := h
  simp only [majorSteps] at hm ⊢
  by_cases hab : b ≤ a
  · obtain ⟨h1, h2⟩ := hx hab
    simp only [if_pos hab, max_eq_left hab] at hm ⊢
    have hlt : i + 1 ≤ a := by omega
    have hInX : p.dy ≤ 2 * c.err := by omega
    by_cases hInY : 2 * c.err ≤ p.dx
    · rw [lineStep_xy hInX hInY]
      have h3 : 2 * (c.err - b + a) ≤ 3 * a - 2 * b := by omega
      refine ⟨i + 1, j + 1, ⟨hdx, hdy, ?_, ?_, ?_, by omega, hlt, by omega, ?_, ?_, by omega⟩, rfl⟩
      · simp only [hcx]; ring
      · simp only [hcy]; ring
      · simp only [hdx, hdy, he]; ring
      · rw [he] at h3
        by_contra hgt
        have : b + 1 ≤ j + 1 := by omega
        nlinarith
      · intro _
        simp only [hdx, hdy]
        omega
    · rw [lineStep_x hInX hInY]
      refine ⟨i + 1, j, ⟨hdx, hdy, ?_, hcy, ?_, by omega, hlt, hj0, hjb, ?_, by omega⟩, rfl⟩
      · simp only [hcx]; ring
      · simp only [hdy, he]; ring
      · intro _
        simp only [hdy]
        omega
  · obtain ⟨h1, h2⟩ := hy (by omega)
    simp only [if_neg hab, max_eq_right (show a ≤ b by omega)] at hm ⊢
    have hlt : j + 1 ≤ b := by omega
    have hInY : 2 * c.err ≤ p.dx := by omega
    by_cases hInX : p.dy ≤ 2 * c.err
    · rw [lineStep_xy hInX hInY]
      have h3 : 2 * a - 3 * b ≤ 2 * (c.err - b + a) := by omega
      refine ⟨i + 1, j + 1, ⟨hdx, hdy, ?_, ?_, ?_, by omega, ?_, by omega, hlt, by omega, ?_⟩, rfl⟩
      · simp only [hcx]; ring
      · simp only [hcy]; ring
      · simp only [hdx, hdy, he]; ring
      · rw [he] at h3
        by_contra hgt
        have : a + 1 ≤ i + 1 := by omega
        nlinarith
      · intro _
        simp only [hdx, hdy]
        omega
    · rw [lineStep_y hInX hInY]
      refine ⟨i, j + 1, ⟨hdx, hdy, hcx, ?_, ?_, hi0, hia, by omega, hlt, by omega, ?_⟩, rfl⟩
      · simp only [hcy]; ring
      · simp only [hdx, he]; ring
      · intro _
        simp only [hdx]
        omega

/-- The set-up of rule R131 puts the walk at its first point. -/
theorem walkAt_start (x0 y0 x1 y1 : Int) :
    WalkAt (lineParams x0 y0 x1 y1) x0 y0 (x1 - x0).natAbs (y1 - y0).natAbs 0 0
      (lineStart (lineParams x0 y0 x1 y1) x0 y0) := by
  refine ⟨rfl, rfl, ?_, ?_, ?_, by omega, by omega, by omega, by omega, fun _ => ?_, fun _ => ?_⟩ <;>
    simp only [lineParams, lineStart, mul_zero] <;> omega

/-- The end test holds exactly at the endpoint of the walk. -/
theorem WalkAt.atEnd_iff {x0 y0 x1 y1 i j : Int} {c : LinePoint}
    (h : WalkAt (lineParams x0 y0 x1 y1) x0 y0 (x1 - x0).natAbs (y1 - y0).natAbs i j c) :
    (lineParams x0 y0 x1 y1).atEnd c = true ↔
      i = (x1 - x0).natAbs ∧ j = (y1 - y0).natAbs := by
  have hi0 := h.i0
  have hj0 := h.j0
  have hia := h.ia
  have hjb := h.jb
  have hx := sign_mul_natAbs (x1 - x0)
  have hy := sign_mul_natAbs (y1 - y0)
  have axis : ∀ v k : Int, 0 ≤ k → k ≤ (v.natAbs : Int) → (sign v * k = v ↔ k = (v.natAbs : Int)) := by
    intro v k hk hk'
    constructor
    · intro hv
      by_cases h0 : sign v = 0
      · have := sign_eq_zero h0
        omega
      · exact mul_left_cancel₀ h0 (hv.trans (sign_mul_natAbs v).symm)
    · rintro rfl
      exact sign_mul_natAbs v
  have e1 := axis (x1 - x0) i hi0 hia
  have e2 := axis (y1 - y0) j hj0 hjb
  simp only [LineParams.atEnd, Bool.and_eq_true, beq_iff_eq, h.cx, h.cy]
  simp only [lineParams]
  rw [← e1, ← e2]
  constructor <;> rintro ⟨h1, h2⟩ <;> constructor <;> omega

/-- A point of the walk lies in the rectangle the endpoints span. -/
theorem WalkAt.inRectangle {x0 y0 x1 y1 i j : Int} {c : LinePoint}
    (h : WalkAt (lineParams x0 y0 x1 y1) x0 y0 (x1 - x0).natAbs (y1 - y0).natAbs i j c) :
    min x0 x1 ≤ c.cx ∧ c.cx ≤ max x0 x1 ∧ min y0 y1 ≤ c.cy ∧ c.cy ≤ max y0 y1 := by
  have hi0 := h.i0
  have hj0 := h.j0
  have hia := h.ia
  have hjb := h.jb
  have axis : ∀ v k : Int, 0 ≤ k → k ≤ (v.natAbs : Int) →
      min 0 v ≤ sign v * k ∧ sign v * k ≤ max 0 v := by
    intro v k hk hk'
    simp only [sign]
    split_ifs <;> omega
  have e1 := axis (x1 - x0) i hi0 hia
  have e2 := axis (y1 - y0) j hj0 hjb
  rw [h.cx, h.cy]
  simp only [lineParams]
  omega

/-- The bound of the walk is the number of points left (rule R133). -/
theorem lineFuel_eq (x0 y0 x1 y1 : Int) :
    lineFuel (lineParams x0 y0 x1 y1) = max (x1 - x0).natAbs (y1 - y0).natAbs + 1 := by
  simp only [lineFuel, lineParams]
  omega

/-- How many steps the walk still has to make. -/
def stepsLeft (a b i j : Int) : Nat := (max a b - majorSteps a b i j).toNat

theorem WalkAt.major_le {p : LineParams} {x0 y0 a b i j : Int} {c : LinePoint}
    (h : WalkAt p x0 y0 a b i j c) : majorSteps a b i j ≤ max a b := by
  have hia := h.ia
  have hjb := h.jb
  simp only [majorSteps]
  split_ifs <;> omega

/-- At the end no step is left; before it, one step uses one up. -/
theorem WalkAt.stepsLeft_end {p : LineParams} {x0 y0 a b i j : Int} {c : LinePoint}
    (h : WalkAt p x0 y0 a b i j c) : stepsLeft a b i j = 0 ↔ i = a ∧ j = b := by
  have hle := h.major_le
  constructor
  · intro hz
    exact h.major_end (by simp only [stepsLeft] at hz; omega)
  · rintro ⟨rfl, rfl⟩
    simp only [stepsLeft, majorSteps]
    split_ifs <;> omega

theorem WalkAt.stepsLeft_succ {p p' : LineParams} {x0 y0 a b i j i' j' : Int} {c c' : LinePoint}
    (h : WalkAt p' x0 y0 a b i' j' c')
    (hm : majorSteps a b i' j' = majorSteps a b i j + 1) (_ : WalkAt p x0 y0 a b i j c) :
    stepsLeft a b i j = stepsLeft a b i' j' + 1 := by
  have := h.major_le
  simp only [stepsLeft]
  omega

theorem stepsLeft_start (x0 y0 x1 y1 : Int) :
    lineFuel (lineParams x0 y0 x1 y1) =
      stepsLeft (x1 - x0).natAbs (y1 - y0).natAbs 0 0 + 1 := by
  rw [lineFuel_eq]
  simp only [stepsLeft, majorSteps]
  split_ifs <;> omega

/-- The point of the walk. -/
def LinePoint.point (c : LinePoint) : Int × Int := (c.cx, c.cy)

/-- The points from one place of the walk on, said once: the first, the last, how many, and where
each of them is on the walk. -/
theorem linePointsFrom_spec {x0 y0 x1 y1 : Int} (n : Nat) :
    ∀ (i j : Int) (c : LinePoint),
      WalkAt (lineParams x0 y0 x1 y1) x0 y0 (x1 - x0).natAbs (y1 - y0).natAbs i j c →
      stepsLeft (x1 - x0).natAbs (y1 - y0).natAbs i j = n →
      (linePointsFrom (lineParams x0 y0 x1 y1) (n + 1) c).head? = some c.point ∧
      (linePointsFrom (lineParams x0 y0 x1 y1) (n + 1) c).getLast? = some (x1, y1) ∧
      (linePointsFrom (lineParams x0 y0 x1 y1) (n + 1) c).length = n + 1 ∧
      ∀ q ∈ linePointsFrom (lineParams x0 y0 x1 y1) (n + 1) c, ∃ i' j' c',
        WalkAt (lineParams x0 y0 x1 y1) x0 y0 (x1 - x0).natAbs (y1 - y0).natAbs i' j' c' ∧
        q = c'.point ∧ majorSteps (x1 - x0).natAbs (y1 - y0).natAbs i j ≤
          majorSteps (x1 - x0).natAbs (y1 - y0).natAbs i' j' := by
  induction n with
  | zero =>
    intro i j c h hn
    have he := h.atEnd_iff.2 (h.stepsLeft_end.1 hn)
    have hp : c.point = (x1, y1) := by
      simp only [LineParams.atEnd, Bool.and_eq_true, beq_iff_eq] at he
      exact Prod.ext he.1 he.2
    simp only [linePointsFrom, he, if_true]
    refine ⟨rfl, congrArg some hp, rfl, fun q hq => ⟨i, j, c, h, ?_, le_rfl⟩⟩
    simpa [LinePoint.point] using hq
  | succ n ih =>
    intro i j c h hn
    have hne : ¬(i = (x1 - x0).natAbs ∧ j = (y1 - y0).natAbs) := fun e => by
      have := h.stepsLeft_end.2 e
      omega
    have he : (lineParams x0 y0 x1 y1).atEnd c = false := by
      rw [Bool.eq_false_iff]
      exact fun e => hne (h.atEnd_iff.1 e)
    obtain ⟨i', j', h', hm⟩ := h.step hne
    obtain ⟨-, hl, hlen, hall⟩ := ih i' j' _ h' (by have := h'.stepsLeft_succ hm h; omega)
    rw [linePointsFrom, he]
    simp only [Bool.false_eq_true, if_false]
    refine ⟨rfl, ?_, by simp [hlen], ?_⟩
    · rw [List.getLast?_cons, hl]
      rfl
    · intro q hq
      rcases List.mem_cons.1 hq with rfl | hq
      · exact ⟨i, j, c, h, rfl, le_rfl⟩
      · obtain ⟨i2, j2, c2, h2, hq2, hm2⟩ := hall q hq
        exact ⟨i2, j2, c2, h2, hq2, by omega⟩

@[simp] theorem State.setFb_setFb (s : State) (m m' : Memory) :
    (s.setFb m).setFb m' = s.setFb m' := rfl

@[simp] theorem State.setFb_self (s : State) : s.setFb s.fb = s := rfl

/-- The loop of rule R132 with a canonical framebuffer, said once: it plots the points of the walk up
to the first one outside the display, which is a fault, or to the end. -/
theorem lineLoop_spec {x0 y0 x1 y1 : Int} (on : Bool) (n : Nat) :
    ∀ (i j : Int) (c : LinePoint) (s : State),
      WalkAt (lineParams x0 y0 x1 y1) x0 y0 (x1 - x0).natAbs (y1 - y0).natAbs i j c →
      stepsLeft (x1 - x0).natAbs (y1 - y0).natAbs i j = n → s.fb.wf s.cfg.fbLen = true →
      ∃ (before rest : List (Int × Int)) (m : Memory),
        linePointsFrom (lineParams x0 y0 x1 y1) (n + 1) c = before ++ rest ∧
        (∀ q ∈ before, inRange s.cfg q.1 q.2 = true) ∧ m.wf s.cfg.fbLen = true ∧
        (∀ x y : Nat, x < width → y < s.cfg.height → (s.setFb m).pixel? x y =
          if ((x : Int), (y : Int)) ∈ before then some on else s.pixel? x y) ∧
        ((rest = [] ∧ lineLoop (lineParams x0 y0 x1 y1) on (n + 1) c s = .go (s.setFb m)) ∨
          ∃ q after, rest = q :: after ∧ inRange s.cfg q.1 q.2 = false ∧
            lineLoop (lineParams x0 y0 x1 y1) on (n + 1) c s = .stop
              (raise .pixelRange (BitVec.ofInt 8 q.1) (BitVec.ofInt 8 q.2) (s.setFb m))) := by
  induction n with
  | zero =>
    intro i j c s h hn hf
    have he := h.atEnd_iff.2 (h.stepsLeft_end.1 hn)
    by_cases hr : inRange s.cfg c.cx c.cy = true
    · obtain ⟨hx0, hx, hy0, hy⟩ := (inRange_iff _ _ _).1 hr
      obtain ⟨x, hxe⟩ := Int.eq_ofNat_of_zero_le hx0
      obtain ⟨y, hye⟩ := Int.eq_ofNat_of_zero_le hy0
      obtain ⟨b, hb, hgo⟩ := setPixel_in (s := s) (x := x) (y := y) on hf (by omega) (by omega)
      refine ⟨[c.point], [], _, by simp [linePointsFrom, he, LinePoint.point], ?_,
        Memory.wf_write hf (byteIndex_lt s.cfg x y (by omega) (by omega))
          (pixelByte b (bitMask y) on), ?_,
        .inl ⟨rfl, by rw [lineLoop, hxe, hye, hgo]; simp [he]⟩⟩
      · simpa [LinePoint.point] using hr
      · intro x' y' hx' hy'
        rw [pixel?_after_write s x y x' y' b on (by omega) hx' hb]
        simp [LinePoint.point, hxe, hye]
    · rw [Bool.not_eq_true] at hr
      exact ⟨[], [c.point], s.fb, by simp [linePointsFrom, he, LinePoint.point], by simp, hf,
        by simp, .inr ⟨c.point, [], rfl, hr, by simp [lineLoop, setPixel_out on hr, LinePoint.point]⟩⟩
  | succ n ih =>
    intro i j c s h hn hf
    have hne : ¬(i = (x1 - x0).natAbs ∧ j = (y1 - y0).natAbs) := fun e => by
      have := h.stepsLeft_end.2 e
      omega
    have he : (lineParams x0 y0 x1 y1).atEnd c = false := by
      rw [Bool.eq_false_iff]
      exact fun e => hne (h.atEnd_iff.1 e)
    have hpts : linePointsFrom (lineParams x0 y0 x1 y1) (n + 1 + 1) c =
        c.point :: linePointsFrom (lineParams x0 y0 x1 y1) (n + 1)
          (lineStep (lineParams x0 y0 x1 y1) c) := by
      rw [linePointsFrom, he]
      rfl
    rw [hpts]
    by_cases hr : inRange s.cfg c.cx c.cy = true
    · obtain ⟨hx0, hx, hy0, hy⟩ := (inRange_iff _ _ _).1 hr
      obtain ⟨x, hxe⟩ := Int.eq_ofNat_of_zero_le hx0
      obtain ⟨y, hye⟩ := Int.eq_ofNat_of_zero_le hy0
      obtain ⟨b, hb, hgo⟩ := setPixel_in (s := s) (x := x) (y := y) on hf (by omega) (by omega)
      have hw := Memory.wf_write hf (byteIndex_lt s.cfg x y (by omega) (by omega))
        (pixelByte b (bitMask y) on)
      obtain ⟨i', j', h', hm⟩ := h.step hne
      obtain ⟨before, rest, m, hsplit, hin, hwf, hpix, hout⟩ :=
        ih i' j' _ (s.setFb (s.fb.write (byteIndex x y) (pixelByte b (bitMask y) on))) h'
          (by have := h'.stepsLeft_succ hm h; omega) hw
      refine ⟨c.point :: before, rest, m, by rw [hsplit]; rfl, ?_, hwf, ?_, ?_⟩
      · intro q hq
        rcases List.mem_cons.1 hq with rfl | hq
        · exact hr
        · exact hin q hq
      · intro x' y' hx' hy'
        have hp := hpix x' y' hx' hy'
        rw [State.setFb_setFb] at hp
        rw [hp, pixel?_after_write s x y x' y' b on (by omega) hx' hb]
        simp only [List.mem_cons, LinePoint.point, hxe, hye, Prod.mk.injEq, Int.ofNat_inj]
        by_cases h1 : ((x' : Int), (y' : Int)) ∈ before <;> by_cases h2 : x' = x ∧ y' = y <;>
          simp [h1, h2]
      · have hl : lineLoop (lineParams x0 y0 x1 y1) on (n + 1 + 1) c s =
            lineLoop (lineParams x0 y0 x1 y1) on (n + 1) (lineStep (lineParams x0 y0 x1 y1) c)
              (s.setFb (s.fb.write (byteIndex x y) (pixelByte b (bitMask y) on))) := by
          conv_lhs => rw [lineLoop, hxe, hye, hgo]
          simp [he]
        rw [hl]
        exact hout
    · rw [Bool.not_eq_true] at hr
      exact ⟨[], _, s.fb, rfl, by simp, hf, by simp, .inr ⟨c.point, _, rfl, hr,
        by rw [lineLoop, setPixel_out on hr]; rfl⟩⟩

end Sys2Proof.Machine
end

