-- ==== Sys2Proof/Laws/Text.lean ====
section
/-! SUPPORT. What the blit and the character loop do, said once (rules R144 to R147). -/

namespace Sys2Proof.Machine

open Config

theorem mem_glyphColumns (i : Fin 8) : i ∈ glyphColumns := by
  revert i
  decide

/-- The blit, said once: the columns hold the glyph, every other byte is kept. -/
theorem blit_spec (g : Fin 41) (base : Nat) (is : List (Fin 8)) (s : State)
    (h : ∀ i : Fin 8, base + i.val < s.cfg.fbLen) :
    ∃ m : Memory, blit g base is s = .go (s.setFb m) ∧
      (∀ i ∈ is, m.read (base + i.val) = some (glyphByte s.cfg g i)) ∧
      (∀ a, (∀ i ∈ is, a ≠ base + i.val) → m.read a = s.fb.read a) ∧
      (s.fb.wf s.cfg.fbLen = true → m.wf s.cfg.fbLen = true) := by
  induction is generalizing s with
  | nil => exact ⟨s.fb, rfl, by simp, fun _ _ => rfl, id⟩
  | cons i is ih =>
    obtain ⟨m, hm, hg, hr, hw⟩ := ih (s.setFb (s.fb.write (base + i.val) (glyphByte s.cfg g i))) h
    refine ⟨m, by rw [blit, fbWrite_of_lt _ (h i)]; exact hm, ?_, ?_, ?_⟩
    · intro j hj
      by_cases hin : j ∈ is
      · exact hg j hin
      · obtain rfl : j = i := by simpa [hin] using hj
        rw [hr _ fun k hk e => hin (by
          have : j = k := Fin.ext (by omega)
          exact this ▸ hk)]
        simp
    · intro a ha
      rw [hr a fun k hk => ha k (List.mem_cons_of_mem _ hk), State.setFb_fb,
        Memory.read_write_ne _ _ _ _ (ha i (List.mem_cons_self ..))]
    · intro hf
      exact hw (Memory.wf_write hf (h i) _)

/-- Rule R146: the eight bytes of a character that passes the guard exist. -/
theorem char_lt (cfg : Build) (x y : Nat) (hx : x ≤ width - 8) (hy : y ≤ cfg.height - 8) (i : Fin 8) :
    flatIndex (pageOf y) x + i.val < cfg.fbLen := by
  have h := pages_mul_eight cfg.geom
  have h' := fbLen_eq cfg.geom
  have hp : 1 ≤ cfg.geom.pages := by cases cfg.geom <;> decide
  have hi := i.isLt
  simp only [flatIndex, pageOf, width, Build.height, Build.fbLen] at *
  omega

theorem textMiss_eq_false (cfg : Build) (x y : Nat) :
    textMiss cfg x y = false ↔ x ≤ width - 8 ∧ y ≤ cfg.height - 8 := by
  simp [textMiss]

/-- The character loop, said once: every character that fits is drawn, every other byte is kept. -/
theorem writeChars_spec (y : Nat) (str : List Byte) (x : Nat) (s : State)
    (hy : y ≤ s.cfg.height - 8) :
    ∃ m : Memory, writeChars y str x s = .go (s.setFb m) ∧
      (∀ (k : Nat) (ch : Byte) (i : Fin 8), str[k]? = some ch → x + 8 * k ≤ width - 8 →
        m.read (y / 8 * width + x + 8 * k + i.val) =
          some (glyphByte s.cfg (charToGlyphIndex ch) i)) ∧
      (∀ a, (∀ (k : Nat) (i : Fin 8), k < str.length → x + 8 * k ≤ width - 8 →
        a ≠ y / 8 * width + x + 8 * k + i.val) → m.read a = s.fb.read a) ∧
      (s.fb.wf s.cfg.fbLen = true → m.wf s.cfg.fbLen = true) := by
  induction str generalizing x s with
  | nil => exact ⟨s.fb, rfl, by simp, fun _ _ => rfl, id⟩
  | cons ch str ih =>
    by_cases hx : x ≤ width - 8
    · have hmiss := (textMiss_eq_false s.cfg x y).2 ⟨hx, hy⟩
      obtain ⟨m1, hm1, hg1, hr1, hw1⟩ := blit_spec (charToGlyphIndex ch) (flatIndex (pageOf y) x)
        glyphColumns s (char_lt s.cfg x y hx hy)
      obtain ⟨m, hm, hg, hr, hw⟩ := ih (x + 8) (s.setFb m1) hy
      refine ⟨m, ?_, ?_, ?_, fun hf => hw (hw1 hf)⟩
      · rw [writeChars, writeChar, hmiss]
        simp only [Bool.false_eq_true, if_false, hm1, Flow.andThen, hm, State.setFb_setFb]
      · intro k c i hk hxk
        cases k with
        | zero =>
          obtain rfl : ch = c := by simpa using hk
          rw [hr _ fun k' i' _ _ => by have := i.isLt; omega]
          simpa [flatIndex, pageOf] using hg1 i (mem_glyphColumns i)
        | succ k =>
          have := hg k c i (by simpa using hk) (by omega)
          rw [← show y / 8 * width + (x + 8) + 8 * k + i.val =
            y / 8 * width + x + 8 * (k + 1) + i.val by omega]
          exact this
      · intro a ha
        rw [hr a fun k i hk hxk => by
          have := ha (k + 1) i (by simpa using hk) (by omega)
          omega]
        exact hr1 a fun i _ => by
          have := ha 0 i (by simp) (by omega)
          simpa [flatIndex, pageOf] using this
    · have hmiss : textMiss s.cfg x y = true := by
        rw [← Bool.not_eq_false, textMiss_eq_false]
        tauto
      obtain ⟨m, hm, hg, hr, hw⟩ := ih (x + 8) s hy
      refine ⟨m, ?_, ?_, ?_, hw⟩
      · rw [writeChars, writeChar, hmiss]
        exact hm
      · intro k c i hk hxk
        omega
      · intro a ha
        exact hr a fun k i hk hxk => by omega

end Sys2Proof.Machine
end

