-- ==== Sys2Proof/Laws/Exec.lean ====
section
/-! SUPPORT. What an instruction and a step can do, said once: the inversion lemmas that later proofs
cite instead of unfolding `exec` and `step`. -/

namespace Sys2Proof.Machine

open Config

/-- The instructions that write `FB` (rule R21). -/
def Draws (i : Instr) : Prop :=
  i = .clear ∨ (∃ x y on, i = .setPixel x y on) ∨
    (∃ x0 y0 x1 y1 on, i = .drawLine x0 y0 x1 y1 on) ∨ ∃ x y str, i = .writeString x y str

/-- The instructions that send (rules R164 to R166 and R91). -/
def Sends (i : Instr) : Prop :=
  i = .init ∨ i = .render ∨ (∃ en, i = .setScroll en) ∨ i.isHost = false

/-! ### Flows -/

/-- What a drawing part can do: go on with another framebuffer, take the pixel fault, or meet a
fault of the model. -/
def DrawFlow (s : State) (f : Flow) : Prop :=
  (∃ m, f = .go (s.setFb m) ∧ (s.fb.wf s.cfg.fbLen = true → m.wf s.cfg.fbLen = true)) ∨
  (∃ m a b, f = .stop (raise .pixelRange a b (s.setFb m)) ∧
    (s.fb.wf s.cfg.fbLen = true → m.wf s.cfg.fbLen = true)) ∨
  ∃ r, f = .stop (.fault r)

theorem fbWrite_cases (a : Nat) (b : Byte) (s : State) :
    (∃ m, fbWrite a b s = .go (s.setFb m) ∧
      (s.fb.wf s.cfg.fbLen = true → m.wf s.cfg.fbLen = true)) ∨
    fbWrite a b s = .stop (.fault .fbHole) := by
  by_cases h : a < s.cfg.fbLen
  · exact .inl ⟨_, fbWrite_of_lt b h, fun hf => Memory.wf_write hf h b⟩
  · exact .inr (by simp [fbWrite, h])

/-- `SetPixel` never plots before it faults (rule R110). -/
theorem setPixel_cases (x y : Int) (on : Bool) (s : State) :
    (∃ m, setPixel x y on s = .go (s.setFb m) ∧
      (s.fb.wf s.cfg.fbLen = true → m.wf s.cfg.fbLen = true)) ∨
    (∃ a b, setPixel x y on s = .stop (raise .pixelRange a b s)) ∨
    setPixel x y on s = .stop (.fault .fbHole) := by
  unfold setPixel
  split
  · unfold plot
    split
    · rcases fbWrite_cases (byteIndex x.toNat y.toNat)
        (pixelByte _ (bitMask y.toNat) on) s with h | h
      · exact .inl h
      · exact .inr (.inr h)
    · exact .inr (.inr rfl)
  · exact .inr (.inl ⟨_, _, rfl⟩)

theorem lineLoop_cases (p : LineParams) (on : Bool) (n : Nat) (c : LinePoint) (s : State) :
    DrawFlow s (lineLoop p on n c s) := by
  induction n generalizing c s with
  | zero => exact .inr (.inr ⟨_, rfl⟩)
  | succ n ih =>
    rw [lineLoop]
    rcases setPixel_cases c.cx c.cy on s with ⟨m, h, hw⟩ | ⟨a, b, h⟩ | h <;> simp only [h]
    · split
      · exact .inl ⟨m, rfl, hw⟩
      · rcases ih (lineStep p c) (s.setFb m) with ⟨m', h', hw'⟩ | ⟨m', a, b, h', hw'⟩ | ⟨r, h'⟩
        · exact .inl ⟨m', h', fun hf => hw' (hw hf)⟩
        · exact .inr (.inl ⟨m', a, b, h', fun hf => hw' (hw hf)⟩)
        · exact .inr (.inr ⟨r, h'⟩)
    · exact .inr (.inl ⟨s.fb, a, b, rfl, id⟩)
    · exact .inr (.inr ⟨_, rfl⟩)

/-- WRITESTRING in any state: the framebuffer changes, or nothing does; it never stops (rule R145). -/
theorem execWriteString_cases (x y : Byte) (str : List Byte) (s : State) :
    ∃ m, execWriteString x y str s = .next (s.setFb m).endOp ∧
      (s.fb.wf s.cfg.fbLen = true → m.wf s.cfg.fbLen = true) := by
  unfold execWriteString
  split
  · exact ⟨s.fb, rfl, id⟩
  · next h =>
    have hy := ((textMiss_eq_false s.cfg (coord x) (coord y)).1 (by simpa using h)).2
    obtain ⟨m, hm, -, -, hw⟩ := writeChars_spec (coord y) str (coord x) s hy
    exact ⟨m, by rw [hm]; rfl, hw⟩

/-! ### Sending -/

/-- The state of an operation whose transaction in flight is the first unanswered one of `ts`. -/
def State.stalled (s : State) (i : Instr) (ts : List Transaction) : State :=
  { s with
    trace := s.trace ++ ts.take (s.busIn.length + 1), busIn := []
    terr := s.terr || s.busIn.any (!·), seqIdx := s.seqIdx + s.busIn.length
    waiting := true, busy := true, cur := some i }

/-- What sending can do: all answered and ended, or one transaction in flight. -/
theorem sendAll_cases (i : Instr) (ts : List Transaction) (s : State) :
    (ts.length ≤ s.busIn.length ∧
      sendAll i (afterLast i) ts s = .next (afterLast i (s.sent ts)).endOp) ∨
    (s.busIn.length < ts.length ∧ sendAll i (afterLast i) ts s = .next (s.stalled i ts)) := by
  rcases Nat.lt_or_ge s.busIn.length ts.length with h | h
  · exact .inr ⟨h, sendAll_short i _ ts s h⟩
  · exact .inl ⟨h, sendAll_enough i _ (afterLast_endOp i) ts s h⟩

theorem sendStart_cases {i : Instr} {s t : State} (h : sendStart i s = .next t) :
    ∃ ts, transactions s i = some ts ∧
      ((ts.length ≤ s.busIn.length ∧ t = (afterLast i (s.sent ts)).endOp) ∨
        (s.busIn.length < ts.length ∧ t = s.seqStart.stalled i ts)) := by
  match ht : transactions s i with
  | none => simp [sendStart, ht] at h
  | some ts =>
    refine ⟨ts, rfl, ?_⟩
    rcases Nat.lt_or_ge s.busIn.length ts.length with hl | hl
    · rw [sendStart_short i s ts ht hl] at h
      refine .inr ⟨hl, ?_⟩
      simpa [State.stalled, State.seqStart] using (Host.Outcome.next.inj h).symm
    · rw [sendStart_enough i s ts ht hl] at h
      exact .inl ⟨hl, (Host.Outcome.next.inj h).symm⟩

theorem sendResume_cases {i : Instr} {s t : State} (h : sendResume i s = .next t) :
    ∃ ts, transactions s i = some ts ∧
      (((ts.drop s.seqIdx).length ≤ s.busIn.length ∧
          t = (afterLast i (s.sent (ts.drop s.seqIdx))).endOp) ∨
        (s.busIn.length < (ts.drop s.seqIdx).length ∧ t = s.stalled i (ts.drop s.seqIdx))) := by
  match ht : transactions s i with
  | none => simp [sendResume, ht] at h
  | some ts =>
    refine ⟨ts, rfl, ?_⟩
    simp only [sendResume, ht] at h
    rcases sendAll_cases i (ts.drop s.seqIdx) s with ⟨hl, he⟩ | ⟨hl, he⟩ <;> rw [he] at h
    · exact .inl ⟨hl, (Host.Outcome.next.inj h).symm⟩
    · exact .inr ⟨hl, (Host.Outcome.next.inj h).symm⟩

/-! ### Instructions -/

/-- What an instruction that answers a next state has done: taken a fault, drawn, loaded the window,
or sent. -/
inductive ExecEffect (i : Instr) (s t : State) : Prop where
  | fault (c : Cause) (a b : Byte) (m : Memory) (ht : t = (s.setFb m).faulted c a b)
      (hm : (∀ x0 y0 x1 y1 on, i ≠ .drawLine x0 y0 x1 y1 on) → m = s.fb)
      (hw : s.fb.wf s.cfg.fbLen = true → m.wf s.cfg.fbLen = true)
      (hr : c.RaisedBy i)
  | draw (m : Memory) (hi : Draws i) (ht : t = (s.setFb m).endOp)
      (hw : s.fb.wf s.cfg.fbLen = true → m.wf s.cfg.fbLen = true)
  | window (sc ec sp ep : Byte) (hi : i = .setWindow sc ec sp ep)
      (hb : boundsLegal s.cfg sc ec sp ep = true)
      (ht : t = (s.setWin (Window.ofBounds sc ec sp ep)).endOp)
  | send (hi : Sends i) (h0 : i = .init → s.dcState = .uninitialized)
      (h1 : i = .render → s.dcState = .ready) (h : sendStart i s = .next t)

theorem raise_effect {i : Instr} {s t : State} {c : Cause} {a b : Byte}
    (hr : c.RaisedBy i) (h : raise c a b s = .next t) : ExecEffect i s t :=
  .fault c a b s.fb (Host.Outcome.next.inj h).symm (fun _ => rfl) id hr

theorem exec_effect {i : Instr} {s t : State} (h : exec i s = .next t) : ExecEffect i s t := by
  cases i with
  | init =>
    simp only [exec, execInit] at h
    split at h
    · exact raise_effect (by simp [Cause.RaisedBy]) h
    · next hd => exact .send (.inl rfl) (fun _ => hd) (by simp) h
  | clear =>
    exact .draw (Memory.zeros s.cfg.fbLen) (.inl rfl) (Host.Outcome.next.inj h).symm
      fun _ => Memory.wf_zeros _
  | setPixel x y on =>
    simp only [exec, execSetPixel] at h
    split at h
    · rcases setPixel_cases (coord x) (coord y) (flagBit on) s with ⟨m, hm, hw⟩ | ⟨a, b, hm⟩ | hm <;>
        rw [hm] at h
      · exact .draw m (.inr (.inl ⟨_, _, _, rfl⟩)) (Host.Outcome.next.inj h).symm hw
      · exact raise_effect (by simp [Cause.RaisedBy]) h
      · cases h
    · exact raise_effect (by simp [Cause.RaisedBy]) h
  | drawLine x0 y0 x1 y1 on =>
    simp only [exec, execDrawLine] at h
    split at h
    · rcases lineLoop_cases _ (flagBit on) _ _ s with ⟨m, hm, hw⟩ | ⟨m, a, b, hm, hw⟩ | ⟨r, hm⟩ <;>
        rw [drawLine, hm] at h
      · exact .draw m (.inr (.inr (.inl ⟨_, _, _, _, _, rfl⟩))) (Host.Outcome.next.inj h).symm hw
      · exact .fault _ a b m (Host.Outcome.next.inj h).symm (fun hne => (hne _ _ _ _ _ rfl).elim) hw
          (by simp [Cause.RaisedBy])
      · cases h
    · exact raise_effect (by simp [Cause.RaisedBy]) h
  | writeString x y str =>
    obtain ⟨m, hm, hw⟩ := execWriteString_cases x y str s
    simp only [exec, hm] at h
    exact .draw m (.inr (.inr (.inr ⟨_, _, _, rfl⟩))) (Host.Outcome.next.inj h).symm hw
  | setWindow sc ec sp ep =>
    simp only [exec, execSetWindow] at h
    split at h
    · next hb => exact .window sc ec sp ep rfl hb (Host.Outcome.next.inj h).symm
    · exact raise_effect (by simp [Cause.RaisedBy]) h
  | render =>
    simp only [exec, execRender] at h
    split at h
    · exact raise_effect (by simp [Cause.RaisedBy]) h
    · next hd => exact .send (.inr (.inl rfl)) (by simp) (fun _ => hd) h
  | setScroll en =>
    simp only [exec, execSetScroll] at h
    split at h
    · exact .send (.inr (.inr (.inl ⟨_, rfl⟩))) (by simp) (by simp) h
    · exact raise_effect (by simp [Cause.RaisedBy]) h
  | _ => exact .send (.inr (.inr (.inr rfl))) (by simp) (by simp) h

/-- The meaning of a display command or a framing is to send what it sends (rules R91 and R90). -/
theorem exec_eq_sendStart {i : Instr} (h : i.isHost = false) (s : State) : exec i s = sendStart i s := by
  cases i <;> first | rfl | cases h

/-! ### Steps -/

/-- CLEAR and WRITESTRING raise nothing (rule R195), and no display command or framing does. -/
theorem Cause.RaisedBy.isHost {c : Cause} {i : Instr} (h : c.RaisedBy i) :
    i.isHost = true ∧ i ≠ .clear ∧ ∀ x y str, i ≠ .writeString x y str := by
  cases c <;> cases i <;> simp_all [Cause.RaisedBy, Instr.isHost]

/-- What no instruction does, whatever it is: it leaves the inputs, the build and the bytes being taken
alone. -/
theorem exec_keeps {i : Instr} {s t : State} (h : exec i s = .next t) :
    t.cfg = s.cfg ∧ t.epoch = s.epoch ∧ t.rst = s.rst ∧ t.cmdIn = s.cmdIn ∧ t.pkt = s.pkt := by
  cases exec_effect h with
  | fault _ _ _ _ ht => subst ht; exact ⟨rfl, rfl, rfl, rfl, rfl⟩
  | draw _ _ ht => subst ht; exact ⟨rfl, rfl, rfl, rfl, rfl⟩
  | window _ _ _ _ _ _ ht => subst ht; exact ⟨rfl, rfl, rfl, rfl, rfl⟩
  | send _ _ _ hs =>
    obtain ⟨ts, -, h⟩ := sendStart_cases hs
    rcases h with ⟨-, rfl⟩ | ⟨-, rfl⟩
    · rcases afterLast_cases i (s.sent ts) with ⟨-, h⟩ | ⟨-, h⟩ <;> rw [h] <;>
        exact ⟨rfl, rfl, rfl, rfl, rfl⟩
    · exact ⟨rfl, rfl, rfl, rfl, rfl⟩

/-- What a step that answers a next state has done. -/
inductive StepEffect (s t : State) : Prop where
  | reset (hr : s.rst = true) (ht : t = s.resetNow)
  | run (i : Instr) (hc : s.cur = some i) (hw : s.waiting = false) (h : exec i s = .next t)
  | answer (i : Instr) (ok : Bool) (rest : List Bool) (hc : s.cur = some i)
      (hw : s.waiting = true) (hb : s.busIn = ok :: rest)
      (h : sendResume i (s.answered ok rest) = .next t)
  | packet (i : Instr) (rest : List Byte) (hc : s.cur = none) (hh : s.halt = false)
      (hd : decode s.portBytes = .packet i rest) (h : exec i (s.latched i rest) = .next t)
  | wait (hc : s.cur = none) (hh : s.halt = false) (hd : decode s.portBytes = .incomplete)
      (ht : t = s.takeAll)
  | illegal (b : Byte) (rest : List Byte) (hc : s.cur = none) (hh : s.halt = false)
      (hd : decode s.portBytes = .illegalOpcode b rest)
      (ht : t = (s.dropped rest).faulted .illegalOpcode b 0x00)

theorem step_effect {s t : State} (h : step s = .next t) : StepEffect s t := by
  simp only [step, stepOnce] at h
  split at h
  · split at h
    · next hr => exact .reset hr (Host.Outcome.next.inj h).symm
    · simp only [stepLive] at h
      split at h
      · next i hc =>
        simp only [proceed] at h
        split at h
        · next hw =>
          simp only [resume] at h
          split at h
          · cases h
          · next ok rest hb => exact .answer i ok rest hc hw hb h
        · next hw => exact .run i hc (by simpa using hw) h
      · next hc =>
        split at h
        · cases h
        · next hh =>
          simp only [fetch] at h
          split at h
          · next i rest hd => exact .packet i rest hc (by simpa using hh) hd h
          · next hd => exact .wait hc (by simpa using hh) hd (Host.Outcome.next.inj h).symm
          · next b rest hd =>
            exact .illegal b rest hc (by simpa using hh) hd (Host.Outcome.next.inj h).symm
  · cases h

end Sys2Proof.Machine
end

