-- ==== Sys2Proof/Laws/PerInstr.lean ====
section
/-! SUPPORT. Statements for all instructions, one lemma per constructor. -/

namespace Sys2Proof.Laws.EncodeLength

/-- Every well-formed instruction has at least one byte and at most `longestInstr` (rules R82 and
R90). -/
def Statement (i : Instr) : Prop :=
  i.wf = true → 1 ≤ (encode i).length ∧ (encode i).length ≤ longestInstr

theorem init : Statement .init := fun _ => ⟨by decide, by decide⟩

theorem clear : Statement .clear := fun _ => ⟨by decide, by decide⟩

theorem setPixel (x y on : Byte) : Statement (.setPixel x y on) := fun _ => by simp [encode, longestInstr]

theorem drawLine (x0 y0 x1 y1 on : Byte) : Statement (.drawLine x0 y0 x1 y1 on) := fun _ => by simp [encode, longestInstr]

theorem writeString (x y : Byte) (str : List Byte) : Statement (.writeString x y str) := fun h => by
  simp only [Instr.wf, strFits, decide_eq_true_eq] at h
  simp only [encode, List.length_cons, longestInstr]
  omega

theorem setWindow (sc ec sp ep : Byte) : Statement (.setWindow sc ec sp ep) := fun _ => by simp [encode, longestInstr]

theorem render : Statement .render := fun _ => ⟨by decide, by decide⟩

theorem setScroll (en : Byte) : Statement (.setScroll en) := fun _ => by simp [encode, longestInstr]

theorem cmdSetDisp (on : Bool) : Statement (.cmdSetDisp on) := fun _ => by simp [encode, commandBytes, longestInstr]

theorem cmdSetMemMode (p : Byte) : Statement (.cmdSetMemMode p) := fun _ => by simp [encode, commandBytes, longestInstr]

theorem cmdSetDispStartLine : Statement .cmdSetDispStartLine := fun _ => ⟨by decide, by decide⟩

theorem cmdSetSegRemap (v : Bool) : Statement (.cmdSetSegRemap v) := fun _ => by simp [encode, commandBytes, longestInstr]

theorem cmdSetMuxRatio (p : Byte) : Statement (.cmdSetMuxRatio p) := fun _ => by simp [encode, commandBytes, longestInstr]

theorem cmdSetComOutDir (v : Bool) : Statement (.cmdSetComOutDir v) := fun _ => by simp [encode, commandBytes, longestInstr]

theorem cmdSetDispOffset (p : Byte) : Statement (.cmdSetDispOffset p) := fun _ => by simp [encode, commandBytes, longestInstr]

theorem cmdSetComPinCfg (p : Byte) : Statement (.cmdSetComPinCfg p) := fun _ => by simp [encode, commandBytes, longestInstr]

theorem cmdSetDispClkDiv (p : Byte) : Statement (.cmdSetDispClkDiv p) := fun _ => by simp [encode, commandBytes, longestInstr]

theorem cmdSetPrecharge (p : Byte) : Statement (.cmdSetPrecharge p) := fun _ => by simp [encode, commandBytes, longestInstr]

theorem cmdSetVcomDesel (p : Byte) : Statement (.cmdSetVcomDesel p) := fun _ => by simp [encode, commandBytes, longestInstr]

theorem cmdSetContrast (p : Byte) : Statement (.cmdSetContrast p) := fun _ => by simp [encode, commandBytes, longestInstr]

theorem cmdSetEntireOn : Statement .cmdSetEntireOn := fun _ => ⟨by decide, by decide⟩

theorem cmdSetNormDisp : Statement .cmdSetNormDisp := fun _ => ⟨by decide, by decide⟩

theorem cmdSetChargePump (p : Byte) : Statement (.cmdSetChargePump p) := fun _ => by simp [encode, commandBytes, longestInstr]

theorem cmdSetScroll (en : Bool) : Statement (.cmdSetScroll en) := fun _ => by simp [encode, commandBytes, longestInstr]

theorem cmdSetColAddr (a b : Byte) : Statement (.cmdSetColAddr a b) := fun _ => by simp [encode, commandBytes, longestInstr]

theorem cmdSetPageAddr (a b : Byte) : Statement (.cmdSetPageAddr a b) := fun _ => by simp [encode, commandBytes, longestInstr]

theorem cmdSetHorizScroll (a b c d e f : Byte) : Statement (.cmdSetHorizScroll a b c d e f) := fun _ => by simp [encode, commandBytes, longestInstr]

theorem ctrlCommand (c : Byte) : Statement (.ctrlCommand c) := fun _ => by simp [encode, longestInstr]

theorem ctrlData (payload : List Byte) : Statement (.ctrlData payload) := fun h => by
  simp only [Instr.wf, payloadFits, Bool.and_eq_true, decide_eq_true_eq] at h
  simp only [encode, List.length_cons, longestInstr]
  omega

end Sys2Proof.Laws.EncodeLength
end

