-- ==== Sys2Proof/Laws/Window.lean ====
section
/-! SUPPORT. What the window functions compute on legal bounds (rules R120, R122 and R123). -/

namespace Sys2Proof.Machine

open Config

theorem boundsLegal_iff (cfg : Build) (sc ec sp ep : Byte) :
    boundsLegal cfg sc ec sp ep = true ↔
      sc.toNat ≤ ec.toNat ∧ ec.toNat < width ∧ sp.toNat ≤ ep.toNat ∧ ep.toNat < cfg.pages := by
  simp [boundsLegal, and_assoc]

/-- On ordered bounds the length of rule R120 is a natural number. -/
theorem computeLength_nat {sc ec sp ep : Byte} (h1 : sc.toNat ≤ ec.toNat)
    (h2 : sp.toNat ≤ ep.toNat) :
    computeLength sc ec sp ep =
      (((ec.toNat - sc.toNat + 1) * (ep.toNat - sp.toNat + 1) : Nat) : Int) := by
  simp only [computeLength]
  push_cast
  rw [Nat.cast_sub h1, Nat.cast_sub h2]

/-- The length of legal bounds is at least 1 and at most `FB_LEN`, so it fits eleven bits. -/
theorem length_le_fbLen {cfg : Build} {sc ec sp ep : Byte} (h : boundsLegal cfg sc ec sp ep = true) :
    1 ≤ (ec.toNat - sc.toNat + 1) * (ep.toNat - sp.toNat + 1) ∧
      (ec.toNat - sc.toNat + 1) * (ep.toNat - sp.toNat + 1) ≤ cfg.fbLen ∧ cfg.fbLen ≤ 1024 := by
  obtain ⟨h1, h2, h3, h4⟩ := (boundsLegal_iff cfg sc ec sp ep).1 h
  have hp := fbLen_eq cfg.geom
  have hpp : cfg.geom.pages ≤ 8 := by cases cfg.geom <;> decide
  simp only [Build.pages, width, Build.fbLen] at *
  have hb : (ec.toNat - sc.toNat + 1) * (ep.toNat - sp.toNat + 1) ≤ 128 * cfg.geom.pages :=
    Nat.mul_le_mul (by omega) (by omega)
  exact ⟨Nat.mul_pos (by omega) (by omega), by omega, by omega⟩

/-- The length register of legal bounds holds the product. -/
theorem buflen_ofBounds {cfg : Build} {sc ec sp ep : Byte}
    (h : boundsLegal cfg sc ec sp ep = true) :
    (Window.ofBounds sc ec sp ep).buflen.toNat =
      (ec.toNat - sc.toNat + 1) * (ep.toNat - sp.toNat + 1) := by
  obtain ⟨h1, -, h3, -⟩ := (boundsLegal_iff cfg sc ec sp ep).1 h
  have hl := length_le_fbLen h
  simp only [Window.ofBounds]
  rw [computeLength_nat h1 h3, BitVec.ofInt_natCast, BitVec.toNat_ofNat, Nat.mod_eq_of_lt (by omega)]

end Sys2Proof.Machine
end

