-- ==== Sys2Proof/Tests/Slice0.lean ====
section
/-! SUPPORT. Tests.  The expected values are the spec's own (its rule or its vector in
spec/95_test_vectors.md is named), never the model's answer.  The last part holds one witness for the
hypotheses of each obligation, at the ends of their ranges. -/

namespace Sys2Proof.Tests

-- One theorem at a time: kernel evaluations that wait for each other each hold a thread.
set_option Elab.async false

open Sys2Proof.Machine Sys2Proof.Config

/-! ### States for the tests -/

/-- A build with known glyphs: byte `j` of the table from glyph 1 on is `j mod 256`. -/
def build : Build where
  geom := .g128x64
  cmd := defaultCodes
  glyphs := ⟨⟨(List.range 320).map (BitVec.ofNat 8)⟩, by simp⟩
  busAddr := 0x3C
  busClock := 400000

/-- The start state of the spec's vectors: reset, then CLEAR. -/
def blank : State := (State.afterReset build 0 [] []).setFb (Memory.zeros build.fbLen)

/-- The same for the 128×32 geometry. -/
def blank32 : State :=
  (State.afterReset { build with geom := .g128x32 } 0 [] []).setFb (Memory.zeros 512)

/-- `blank` with a bus that answers 26 times. -/
def answering : State := blank.answer (List.replicate 26 true)

/-- `answering` after INIT. -/
def ready : State := { answering with dcState := .ready, trace := initTransactions build }

/-- A block halted by `PixelRange(128, 0)`. -/
def dead : State := blank.faulted .pixelRange 0x80 0x00

/-- INIT with its first transaction in flight. -/
def stuck : State := { blank with cur := some .init, busy := true, waiting := true, trace := [[0x80, 0xAE]] }

/-- The state an outcome answers. -/
def after : Host.Outcome State Fault Refusal → State
  | .next t => t
  | .fault _ => blank
  | .refused _ => blank

/-- The outcome is a next state. -/
def isNext : Host.Outcome State Fault Refusal → Bool
  | .next _ => true
  | .fault _ => false
  | .refused _ => false

/-- An outcome that is a next state is the one it answers. -/
theorem eq_next {o : Host.Outcome State Fault Refusal} (h : isNext o = true) : o = .next (after o) := by
  cases o with
  | next u => rfl
  | fault r => cases h
  | refused r => cases h

/-- One step on a packet offered to a state. -/
def run (s : State) (packet : List Byte) : State := after (step (s.offer packet))

/-! ### Well-formedness refuses what has no encoding -/

theorem test_wf_refuses_a_string_of_256 : (Instr.writeString 0 0 (List.replicate 256 0)).wf = false := by
  decide +kernel

theorem test_wf_accepts_a_string_of_255 : (Instr.writeString 0 0 (List.replicate 255 0)).wf = true := by
  decide +kernel

theorem test_wf_refuses_an_empty_payload : (Instr.ctrlData []).wf = false := by decide

theorem test_wf_refuses_a_payload_of_1025 : (Instr.ctrlData (List.replicate 1025 0)).wf = false := by
  decide +kernel

/-! ### Decoding: a word of every constructor, written out from rules R82, R91 with R93, and R90 -/

theorem test_decode_init : decode [0x01] = .packet .init [] := rfl
theorem test_decode_clear : decode [0x02, 0x03] = .packet .clear [0x03] := rfl
/-- V-PIX-1. -/
theorem test_decode_setPixel : decode [0x03, 0x03, 0x0A, 0x01] = .packet (.setPixel 3 10 1) [] := rfl
/-- The example of rule R136. -/
theorem test_decode_drawLine :
    decode [0x04, 0x78, 0x3C, 0x82, 0x3C, 0x01] = .packet (.drawLine 120 60 130 60 1) [] := rfl
/-- S5. -/
theorem test_decode_writeString :
    decode [0x05, 0x00, 0x00, 0x02, 0x41, 0x42, 0x07] = .packet (.writeString 0 0 [0x41, 0x42]) [0x07] :=
  rfl
/-- V-WIN-3. -/
theorem test_decode_setWindow :
    decode [0x06, 0x08, 0x17, 0x01, 0x02] = .packet (.setWindow 8 23 1 2) [] := rfl
theorem test_decode_render : decode [0x07] = .packet .render [] := rfl
theorem test_decode_setScroll : decode [0x08, 0x01] = .packet (.setScroll 1) [] := rfl

theorem test_decode_incomplete : decode [0x05, 0x00, 0x00, 0x02, 0x41] = .incomplete := rfl
theorem test_decode_rejects : decode [0x00, 0x01] = .illegalOpcode 0x00 [0x01] ∧
    decode [0x09] = .illegalOpcode 0x09 [] ∧ decode [0xFF] = .illegalOpcode 0xFF [] := ⟨rfl, rfl, rfl⟩

/-- The bring-up list of rule R94 (its default column), read as display commands one after the other;
the commands of RENDER and SETSCROLL (rules R95 and R96) after it. -/
theorem test_decode_commands :
    decodeCommand defaultCodes [0xAE] = some (.cmdSetDisp false, []) ∧
    decodeCommand defaultCodes [0x20, 0x00] = some (.cmdSetMemMode 0x00, []) ∧
    decodeCommand defaultCodes [0x40] = some (.cmdSetDispStartLine, []) ∧
    decodeCommand defaultCodes [0xA1] = some (.cmdSetSegRemap true, []) ∧
    decodeCommand defaultCodes [0xA8, 0x3F] = some (.cmdSetMuxRatio 0x3F, []) ∧
    decodeCommand defaultCodes [0xC8] = some (.cmdSetComOutDir true, []) ∧
    decodeCommand defaultCodes [0xD3, 0x00] = some (.cmdSetDispOffset 0x00, []) ∧
    decodeCommand defaultCodes [0xDA, 0x12] = some (.cmdSetComPinCfg 0x12, []) ∧
    decodeCommand defaultCodes [0xD5, 0x80] = some (.cmdSetDispClkDiv 0x80, []) ∧
    decodeCommand defaultCodes [0xD9, 0xF1] = some (.cmdSetPrecharge 0xF1, []) ∧
    decodeCommand defaultCodes [0xDB, 0x30] = some (.cmdSetVcomDesel 0x30, []) := by decide

theorem test_decode_commands_rest :
    decodeCommand defaultCodes [0x81, 0xFF] = some (.cmdSetContrast 0xFF, []) ∧
    decodeCommand defaultCodes [0xA4] = some (.cmdSetEntireOn, []) ∧
    decodeCommand defaultCodes [0xA6] = some (.cmdSetNormDisp, []) ∧
    decodeCommand defaultCodes [0x8D, 0x14] = some (.cmdSetChargePump 0x14, []) ∧
    decodeCommand defaultCodes [0x2F] = some (.cmdSetScroll true, []) ∧
    decodeCommand defaultCodes [0x21, 0x00, 0x7F] = some (.cmdSetColAddr 0x00 0x7F, []) ∧
    decodeCommand defaultCodes [0x22, 0x00, 0x07] = some (.cmdSetPageAddr 0x00 0x07, []) ∧
    decodeCommand defaultCodes [0x26, 0x00, 0x00, 0x00, 0x03, 0x00, 0xFF] =
      some (.cmdSetHorizScroll 0x00 0x00 0x00 0x03 0x00 0xFF, []) ∧
    decodeCommand defaultCodes [0x10] = none ∧ decodeCommand defaultCodes [0x20] = none := by decide

theorem test_decode_framings :
    decodeFraming [0x80, 0xAF] = some (.ctrlCommand 0xAF) ∧
    decodeFraming [0x40, 0x01, 0x02] = some (.ctrlData [0x01, 0x02]) ∧
    decodeFraming [0x40] = none ∧ decodeFraming [0x80] = none ∧ decodeFraming [0x80, 1, 2] = none ∧
    decodeFraming [0x00, 0x01] = none := by decide

/-- No byte matches two rows of the command table (rules R91 and R93). -/
theorem test_command_rows_disjoint : ∀ b : Byte,
    ((cmdRows defaultCodes).filter fun r => b &&& r.mask == r.code).length ≤ 1 := by decide +kernel

/-- Table words: bit 0 is the least significant bit of the first byte. -/
theorem test_table_words :
    decodeTableWord 8 0x03 = some (.setPixel 0 0 0) ∧ decodeTableWord 8 0xAE = some (.cmdSetDisp false) ∧
    decodeTableWord 8 0x80 = some (.ctrlCommand 0x00) ∧ decodeTableWord 8 0x09 = none ∧
    decodeTableWord 16 0x2A40 = some (.ctrlData [0x2A]) := by decide +kernel

/-! ### One step each -/

/-- V-PIX-6 (top of memory) and V-PIX-4 (only the asked bit is cleared). -/
theorem test_setPixel_last : (run blank [0x03, 0x7F, 0x3F, 0x01]).fb.read 1023 = some 0x80 := by
  decide +kernel
theorem test_setPixel_clears_one_bit :
    (run (blank.setFb (blank.fb.write 131 0x14)) [0x03, 0x03, 0x0A, 0x00]).fb.read 131 = some 0x10 := by
  decide +kernel

/-- V-PIX-13: the operand check comes before the range check. -/
theorem test_setPixel_flag_first : (fun s : State => (s.halt, s.cause, s.finfo0, s.finfo1))
    (run blank [0x03, 0xC8, 0x00, 0x02]) = (true, 0x06, 0x03, 0x02) := by decide +kernel

/-- V-PIX-12: row 32 is outside the smaller display. -/
theorem test_setPixel_row_32 : (fun s : State => (s.cause, s.finfo0, s.finfo1))
    (run blank32 [0x03, 0x00, 0x20, 0x01]) = (0x01, 0x00, 0x20) := by decide +kernel

/-- V-PIX-15. -/
theorem test_clear : (run (blank.setFb (blank.fb.write 7 0xFF)) [0x02]).fb.read 7 = some 0x00 := by
  decide +kernel

/-- V-WIN-4: the tightest legal window.  V-WIN-10: pages out of order. -/
theorem test_setWindow : (fun s : State => (s.win.buflen, s.win.offset, s.halt))
    (run blank [0x06, 0x7F, 0x7F, 0x07, 0x07]) = (1, 1023, false) := by decide +kernel
theorem test_setWindow_pages : (fun s : State => (s.cause, s.finfo0, s.win.startPage))
    (run blank [0x06, 0x00, 0x7F, 0x03, 0x02]) = (0x02, 0x00, 0x00) := by decide +kernel

/-- V-LIN-7: the direction of the draw counts.  V-LIN-5: a steep line. -/
theorem test_drawLine_direction : (fun m : Memory => (m.read 0, m.read 1, m.read 2, m.read 3))
    (run blank [0x04, 0x03, 0x00, 0x00, 0x04, 0x01]).fb =
      (some 0x10, some 0x0C, some 0x02, some 0x01) := by decide +kernel
theorem test_drawLine_steep : (fun m : Memory => (m.read 0, m.read 1, m.read 2, m.read 3))
    (run blank [0x04, 0x00, 0x00, 0x02, 0x05, 0x01]).fb =
      (some 0x03, some 0x0C, some 0x30, some 0x00) := by decide +kernel

/-- S5 with the glyphs of `build`: `A` is glyph 1, bytes 0 to 7; `B` is glyph 2, bytes 8 to 15. -/
theorem test_writeString : (fun m : Memory => (m.read 0, m.read 7, m.read 8, m.read 15, m.read 16))
    (run blank [0x05, 0x00, 0x00, 0x02, 0x41, 0x42]).fb =
      (some 0, some 7, some 8, some 15, some 0) := by decide +kernel

/-- S4: digits come after letters; lower case is folded; a space is blank. -/
theorem test_characters : [0x41, 0x5A, 0x30, 0x39, 0x3D, 0x2C, 0x25, 0x2E, 0x61, 0x7A, 0x20, 0x21].map
    charToGlyphIndex = [1, 26, 27, 36, 37, 38, 39, 40, 1, 26, 0, 0] := by decide

/-- S6: the bring-up list with the default codes, one byte a transaction. -/
theorem test_init : (run answering [0x01]).trace =
    ([0xAE, 0x20, 0x00, 0x40, 0xA1, 0xA8, 0x3F, 0xC8, 0xD3, 0x00, 0xDA, 0x12, 0xD5, 0x80, 0xD9, 0xF1,
      0xDB, 0x30, 0x81, 0xFF, 0xA4, 0xA6, 0x8D, 0x14, 0x2E, 0xAF] : List Byte).map fun c => [0x80, c] := by
  decide +kernel

/-- Rules R195 and R196: a second INIT. -/
theorem test_init_again : (fun s : State => (s.halt, s.cause, s.finfo0, s.finfo1)) (run ready [0x01]) =
    (true, 0x04, 0x00, 0x00) := by decide +kernel

/-- Rules R165 and R167: the window of V-WIN-3 is sent as one run of 32 bytes from index 136, across
the end of the row. -/
theorem test_render : ((run { ready with win := Window.ofBounds 8 23 1 2, fb := blank.fb.write 167 0x5A }
      [0x07]).trace.drop 26) =
    [[0x80, 0x21], [0x80, 0x08], [0x80, 0x17], [0x80, 0x22], [0x80, 0x01], [0x80, 0x02],
     0x40 :: (List.replicate 31 0x00 ++ [0x5A])] := by decide +kernel

/-- Rule R165: RENDER before INIT. -/
theorem test_render_not_ready : (fun s : State => (s.cause, s.trace)) (run answering [0x07]) =
    (0x03, []) := by decide +kernel

/-- S8: the eighth byte carries the flag; a failed transaction sets `TERR` and stops nothing. -/
theorem test_setScroll : (fun s : State => (s.trace, s.terr, s.busy))
    (run (blank.answer [true, true, false, true, true, true, true, true]) [0x08, 0x01]) =
    ([[0x80, 0x26], [0x80, 0x00], [0x80, 0x00], [0x80, 0x00], [0x80, 0x03], [0x80, 0x00], [0x80, 0xFF],
      [0x80, 0x2F]], true, false) := by decide +kernel

/-- Rule R169: a silent bus leaves the operation in progress. -/
theorem test_stall : (fun s : State => (s.trace, s.busy, s.waiting, s.cmdReady)) (run blank [0x08, 0x00]) =
    ([[0x80, 0x26]], true, true, false) := by decide +kernel

/-- Rules R91 and R96: each shape of a display command, and both framings. -/
theorem test_display_commands :
    (after (exec (.cmdSetDisp true) answering)).trace = [[0x80, 0xAF]] ∧
    (after (exec (.cmdSetComOutDir true) answering)).trace = [[0x80, 0xC8]] ∧
    (after (exec (.cmdSetContrast 0xFF) answering)).trace = [[0x80, 0x81], [0x80, 0xFF]] ∧
    (after (exec (.cmdSetPageAddr 1 2) answering)).trace = [[0x80, 0x22], [0x80, 0x01], [0x80, 0x02]] ∧
    (after (exec (.ctrlCommand 0xA6) answering)).trace = [[0x80, 0xA6]] ∧
    (after (exec (.ctrlData [0x11, 0x22]) answering)).trace = [[0x40, 0x11, 0x22]] := by decide +kernel

/-- Rule R85(a): an illegal opcode halts at once; the byte after it is not taken. -/
theorem test_illegal_opcode : (fun s : State => (s.cause, s.finfo0, s.finfo1, s.cmdIn))
    (run blank [0x09, 0x02]) = (0x05, 0x09, 0x00, [0x02]) := by decide +kernel

/-- Rule R30: the status byte of a halted block. -/
theorem test_status : dead.status = 0x04 ∧ ready.status = 0x01 ∧ stuck.status = 0x02 := by
  decide +kernel

/-- Rule R234: the failed run of P5 is over though a byte is never taken; a run that waits is not. -/
theorem test_run_over : (fun s : State => (s.cmdIn, s.failed, s.runOver, s.goodEnd))
      (run blank [0x07, 0x01]) = ([0x01], true, true, false) ∧
    (stuck.runOver, (blank.offer [0x02]).runOver, blank.goodEnd) = (false, false, true) := by
  decide +kernel

/-- One byte at a time (rule R32): the second byte of SETPIXEL leaves it incomplete. -/
theorem test_one_byte_at_a_time : (fun s : State => (s.pktPos, s.busy, s.cmdIn, s.halt))
    (run (run blank [0x03]) [0x7F]) = (2, true, [], false) := by decide +kernel

/-- Rule R32: no byte is handed over while reset is asserted (log 27): offered, not ready, not taken. -/
theorem test_reset_takes_no_byte : (fun s : State => (s.cmdValid, s.cmdReady, (after (step s)).cmdIn))
    (blank.offer [0x02]).assertReset = (true, false, [0x02]) := by decide +kernel

/-- Rule R36: the values after reset. -/
theorem test_reset : State.reset.win = ⟨0, 127, 0, 7, 1024⟩ ∧ State.reset.status = 0x00 ∧
    State.reset.trace = [] ∧ State.reset.pktPos = 0 := by decide

/-- A table word runs as the first instruction after reset. -/
theorem test_withFetchWord : (after (step (State.reset.withFetchWord 8 0x06))).win.buflen = 1 ∧
    (after (step (State.reset.withFetchWord 8 0xAE))).trace = [[0x80, 0xAE]] := by decide +kernel

/-! ### Witnesses -/

theorem blank_fbOk : blank.FbOk := by unfold State.FbOk; decide +kernel

theorem dead_fbOk : dead.FbOk := by unfold State.FbOk; decide +kernel

theorem stuck_fbOk : stuck.FbOk := by unfold State.FbOk; decide +kernel

theorem ready_fbOk : ready.FbOk := by unfold State.FbOk; decide +kernel

theorem blank_inv : blank.Inv where
  cfgLegal := rfl
  fbOk := blank_fbOk
  winOk := ⟨by decide, by decide⟩
  haltCause := nofun
  quiet := fun _ => ⟨rfl, rfl, rfl⟩
  readyTrace := nofun
  goodTrace := nofun
  haltIdle := nofun
  pktOpen := rfl
  curPkt := fun _ => rfl
  busyIff := rfl
  curWf := nofun
  inFlight := nofun
  seqIdle := fun _ => rfl
  initWaits := nofun

theorem dead_inv : dead.Inv where
  cfgLegal := rfl
  fbOk := dead_fbOk
  winOk := ⟨by decide, by decide⟩
  haltCause := fun _ => by decide
  quiet := nofun
  readyTrace := nofun
  goodTrace := nofun
  haltIdle := fun _ => ⟨rfl, rfl⟩
  pktOpen := rfl
  curPkt := fun _ => rfl
  busyIff := rfl
  curWf := nofun
  inFlight := nofun
  seqIdle := fun _ => rfl
  initWaits := nofun

theorem stuck_inv : stuck.Inv where
  cfgLegal := rfl
  fbOk := stuck_fbOk
  winOk := ⟨by decide, by decide⟩
  haltCause := nofun
  quiet := fun _ => ⟨rfl, rfl, rfl⟩
  readyTrace := nofun
  goodTrace := fun t ht => .inl ⟨0xAE, List.mem_singleton.1 ht⟩
  haltIdle := nofun
  pktOpen := rfl
  curPkt := fun _ => rfl
  busyIff := rfl
  curWf := fun _ h => Option.some.inj h ▸ rfl
  inFlight := fun _ => ⟨.init, initTransactions build, [], rfl, rfl, by decide, by decide⟩
  seqIdle := nofun
  initWaits := fun _ _ => rfl

theorem ready_winOk : ready.WinOk := ⟨by decide, by decide⟩

theorem witness_HostPacketsRoundTrip :
    (Instr.writeString 0 0 (List.replicate 255 0x41)).isHost = true ∧
      (Instr.writeString 0 0 (List.replicate 255 0x41)).wf = true := by decide +kernel

theorem witness_DecoderTakesExactlyThePacket : decode [0x08, 0x01, 0x07] = .packet (.setScroll 1) [0x07] :=
  rfl

theorem witness_DecoderWaitsForTheLastByte : (Instr.setPixel 1 2 1).isHost = true ∧
    (Instr.setPixel 1 2 1).wf = true ∧ 3 < (encode (.setPixel 1 2 1)).length := by decide

theorem witness_PacketFormats : (List.replicate 255 (0x41 : Byte)).length ≤ 255 := by decide +kernel

theorem witness_DisplayCommandsRoundTrip : (Instr.cmdSetDisp true).isCommand = true ∧
    (Instr.cmdSetHorizScroll 0 0 0 3 0 0xFF).isCommand = true := by decide

theorem witness_TransactionsAreFramings : decodeFraming [0x40, 0x01] = some (.ctrlData [0x01]) ∧
    decodeFraming [0x80, 0x00] = some (.ctrlCommand 0x00) ∧ GoodTransaction [0x40, 0x01] ∧
    GoodTransaction [0x80, 0x00] :=
  ⟨rfl, rfl, .inr ⟨[0x01], by simp, rfl⟩, .inl ⟨0x00, rfl⟩⟩

theorem witness_ClearZeroFills : 1023 < blank.cfg.fbLen ∧ 511 < blank32.cfg.fbLen := by decide

theorem witness_SetPixelSetsOneBitOrFaults : blank.FbOk ∧ ((1 : Byte) = 0x00 ∨ (1 : Byte) = 0x01) ∧
    (127 : Byte).toNat < width ∧ (63 : Byte).toNat < blank.cfg.height :=
  ⟨blank_fbOk, by decide, by decide, by decide⟩

theorem witness_SetPixelSetsOneBitOrFaults_faults : ((2 : Byte) ≠ 0x00 ∧ (2 : Byte) ≠ 0x01) ∧
    ((0 : Byte) = 0x00 ∨ (0 : Byte) = 0x01) ∧
    (width ≤ (128 : Byte).toNat ∨ blank.cfg.height ≤ (0 : Byte).toNat) ∧
    (width ≤ (0 : Byte).toNat ∨ blank.cfg.height ≤ (64 : Byte).toNat) := by decide

theorem witness_SetPixelChangesOnePixel : blank.FbOk ∧ ((0 : Byte) = 0x00 ∨ (0 : Byte) = 0x01) ∧
    (0 : Byte).toNat < width ∧ (0 : Byte).toNat < blank.cfg.height ∧ 127 < width ∧
    63 < blank.cfg.height ∧ ((127, 63) : Nat × Nat) ≠ ((0 : Byte).toNat, (0 : Byte).toNat) :=
  ⟨blank_fbOk, by decide, by decide, by decide, by decide, by decide, by decide⟩

/-- Two points of one byte, and two of different bytes. -/
theorem witness_SetPixelRepeatsAndCommutes : blank.FbOk ∧ 5 < width ∧ 0 < blank.cfg.height ∧
    7 < blank.cfg.height ∧ ((5, 0) : Nat × Nat) ≠ (5, 7) ∧ ((5, 0) : Nat × Nat) ≠ (127, 63) :=
  ⟨blank_fbOk, by decide, by decide, by decide, by decide, by decide⟩

theorem witness_SetWindowLoadsBoundsOrFaults : (0 : Byte).toNat ≤ (127 : Byte).toNat ∧
    (127 : Byte).toNat < width ∧ (7 : Byte).toNat ≤ (7 : Byte).toNat ∧
    (7 : Byte).toNat < blank.cfg.pages := by decide

/-- Each of the four parts of the condition broken alone, by one. -/
theorem witness_SetWindowLoadsBoundsOrFaults_faults :
    ¬((10 : Byte).toNat ≤ (9 : Byte).toNat ∧ (9 : Byte).toNat < width ∧
      (0 : Byte).toNat ≤ (0 : Byte).toNat ∧ (0 : Byte).toNat < blank.cfg.pages) ∧
    ¬((0 : Byte).toNat ≤ (128 : Byte).toNat ∧ (128 : Byte).toNat < width ∧
      (0 : Byte).toNat ≤ (0 : Byte).toNat ∧ (0 : Byte).toNat < blank.cfg.pages) ∧
    ¬((0 : Byte).toNat ≤ (127 : Byte).toNat ∧ (127 : Byte).toNat < width ∧
      (3 : Byte).toNat ≤ (2 : Byte).toNat ∧ (2 : Byte).toNat < blank.cfg.pages) ∧
    ¬((0 : Byte).toNat ≤ (127 : Byte).toNat ∧ (127 : Byte).toNat < width ∧
      (0 : Byte).toNat ≤ (8 : Byte).toNat ∧ (8 : Byte).toNat < blank.cfg.pages) := by decide

theorem witness_WindowSliceInsideFramebuffer : ready.WinOk := ready_winOk

theorem witness_DrawLinePlotsExactlyTheWalk : blank.FbOk ∧ ((1 : Byte) = 0x00 ∨ (1 : Byte) = 0x01) ∧
    (127 : Byte).toNat < width ∧ (0 : Byte).toNat < blank.cfg.height ∧ (0 : Byte).toNat < width ∧
    (63 : Byte).toNat < blank.cfg.height :=
  ⟨blank_fbOk, by decide, by decide, by decide, by decide, by decide⟩

theorem witness_LineWalkShape : ([(5, 5)] : List (Int × Int)) =
    linePoints ((5 : Byte).toNat : Int) ((5 : Byte).toNat : Int) ((5 : Byte).toNat : Int)
      ((5 : Byte).toNat : Int) := by decide

/-- An endpoint outside on each of the four sides of the condition. -/
theorem witness_DrawLineFaultsAtFirstPointOutside : blank.FbOk ∧
    ((1 : Byte) = 0x00 ∨ (1 : Byte) = 0x01) ∧ width ≤ (128 : Byte).toNat ∧
    blank.cfg.height ≤ (64 : Byte).toNat := ⟨blank_fbOk, by decide, by decide, by decide⟩

theorem witness_DrawLineRejectsReservedFlagBits : (2 : Byte) ≠ 0x00 ∧ (2 : Byte) ≠ 0x01 := by decide

/-- A vertical, a horizontal and a diagonal line. -/
theorem witness_DegenerateLines :
    ((0 : Int) = ((3 : Byte).toNat : Int) - (3 : Byte).toNat ∧
      (-5 : Int) = ((1 : Byte).toNat : Int) - (6 : Byte).toNat) ∧
    ((0 : Int) = 0 ∨ (-5 : Int) = 0 ∨ (0 : Int).natAbs = (-5 : Int).natAbs) ∧
    ((7 : Int) = 0 ∨ (0 : Int) = 0 ∨ (7 : Int).natAbs = (0 : Int).natAbs) ∧
    ((7 : Int) = 0 ∨ (-7 : Int) = 0 ∨ (7 : Int).natAbs = (-7 : Int).natAbs) := by decide

/-- The ends of each range of character codes, and the codes next to them. -/
theorem witness_CharacterMapping :
    (0x41 ≤ (0x41 : Byte).toNat ∧ (0x5A : Byte).toNat ≤ 0x5A) ∧
    (0x61 ≤ (0x61 : Byte).toNat ∧ (0x7A : Byte).toNat ≤ 0x7A) ∧
    (0x30 ≤ (0x30 : Byte).toNat ∧ (0x39 : Byte).toNat ≤ 0x39) ∧
    [0x2F, 0x3A, 0x40, 0x5B, 0x60, 0x7B].map charToGlyphIndex = [0, 0, 0, 0, 0, 0] := by decide

theorem witness_WriteStringBlitsGlyphs : (List.replicate 255 (0x41 : Byte)).length ≤ 255 ∧
    (120 : Byte).toNat ≤ width - 8 ∧
    (56 : Byte).toNat ≤ blank.cfg.height - 8 ∧ ([0x41] : List Byte)[0]? = some 0x41 ∧
    (120 : Byte).toNat + 8 * 0 ≤ width - 8 := by decide +kernel

theorem witness_WriteStringBlitsGlyphs_miss :
    (width - 8 < (121 : Byte).toNat ∨ blank.cfg.height - 8 < (0 : Byte).toNat) ∧
    (width - 8 < (0 : Byte).toNat ∨ blank.cfg.height - 8 < (57 : Byte).toNat) := by decide

theorem witness_TextSnapsToThePage : (55 : Byte).toNat ≤ blank.cfg.height - 8 ∧
    (48 : Byte).toNat = 8 * ((55 : Byte).toNat / 8) := by decide

theorem witness_InitSendsBringUpListOrFaults : answering.dcState = .uninitialized ∧
    26 ≤ answering.busIn.length := by decide

/-- The faulting clauses of INIT and of RENDER. -/
theorem witness_InitSendsBringUpListOrFaults_faults : ready.dcState = .ready := by decide

theorem witness_RenderSendsContiguousRunOrFaults_faults : answering.dcState = .uninitialized := by
  decide

theorem witness_RenderSendsContiguousRunOrFaults : ready.FbOk ∧ ready.WinOk ∧ ready.dcState = .ready ∧
    7 ≤ ready.busIn.length := ⟨ready_fbOk, ready_winOk, rfl, by decide⟩

theorem witness_SetScrollSendsEightBytesOrFaults : ((0 : Byte) = 0x00 ∨ (0 : Byte) = 0x01) ∧
    ((1 : Byte) = 0x00 ∨ (1 : Byte) = 0x01) ∧ 8 ≤ answering.busIn.length := by decide

theorem witness_SetScrollSendsEightBytesOrFaults_faults : (0xFF : Byte) ≠ 0x00 ∧ (0xFF : Byte) ≠ 0x01 := by
  decide

theorem witness_BareAndOredCommandsSendOneByte : 1 ≤ answering.busIn.length := by decide

theorem witness_OneParameterCommandsSendTwoBytes : 2 ≤ answering.busIn.length := by decide

/-- Exactly three answers, and exactly seven. -/
theorem witness_AddressAndScrollCommandsSendTheirBytes :
    3 ≤ (blank.answer [true, true, true]).busIn.length ∧
    7 ≤ (blank.answer (List.replicate 7 true)).busIn.length := by decide

theorem witness_FramingsSendOneTransaction : 1 ≤ answering.busIn.length ∧ ([0x00] : List Byte) ≠ [] := by
  decide

/-- INIT in `Uninitialized`, no answer at all. -/
theorem witness_SilentBusLeavesOperationWaiting :
    (Instr.init = .init → blank.dcState = .uninitialized) ∧
    (Instr.init = .render → blank.dcState = .ready) ∧
    (∀ en : Byte, Instr.init = .setScroll en → en = 0x00 ∨ en = 0x01) ∧
    transactions blank .init = some (initTransactions build) ∧
    blank.busIn.length < (initTransactions build).length :=
  ⟨fun _ => rfl, nofun, nofun, rfl, by decide⟩

theorem witness_NoStepPastUnansweredTransaction : stuck.cfg.legal = true ∧ stuck.rst = false ∧
    stuck.cur = some .init ∧ stuck.waiting = true ∧ stuck.busIn = [] := by decide

theorem witness_LateAnswersGiveTheSameEnd : blank.cfg.legal = true ∧ blank.rst = false ∧
    blank.waiting = false ∧ exec .init blank = .next (after (exec .init blank)) ∧
    (after (exec .init blank)).waiting = true :=
  ⟨rfl, rfl, rfl, eq_next (by decide +kernel), by decide +kernel⟩

theorem witness_AnswersChangeNothingButTerr :
    (blank.answer [true]).SameButAnswers (blank.answer [false]) := ⟨rfl, rfl⟩

theorem witness_TerrRecordsEveryFailedTransaction :
    exec (.ctrlCommand 0xA6) (blank.answer [false]) =
      .next (after (exec (.ctrlCommand 0xA6) (blank.answer [false]))) ∧
    (after (exec (.ctrlCommand 0xA6) (blank.answer [false]))).waiting = false := ⟨rfl, rfl⟩

theorem witness_FaultingOperationSendsNothing :
    exec (.setPixel 128 0 1) blank = .next (after (exec (.setPixel 128 0 1) blank)) ∧
    blank.halt = false ∧ (after (exec (.setPixel 128 0 1) blank)).halt = true ∧
    ∀ x0 y0 x1 y1 on : Byte, Instr.setPixel 128 0 1 ≠ .drawLine x0 y0 x1 y1 on :=
  ⟨eq_next (by decide +kernel), rfl, by decide +kernel, nofun⟩

theorem witness_CauseCodes : Cause.pixelRange.code = Cause.pixelRange.code := rfl

/-- Both ends of the illegal range, and the byte below it. -/
theorem witness_IllegalOpcodeFaultsAtOnce : blank.cfg.legal = true ∧ blank.rst = false ∧
    blank.halt = false ∧ blank.cur = none ∧ blank.pkt = [] ∧ (blank.offer [0x09]).cmdIn = [0x09] ∧
    ((0x00 : Byte) = 0x00 ∨ 0x09 ≤ (0x00 : Byte).toNat) ∧
    ((0x09 : Byte) = 0x00 ∨ 0x09 ≤ (0x09 : Byte).toNat) ∧
    ((0xFF : Byte) = 0x00 ∨ 0x09 ≤ (0xFF : Byte).toNat) := by decide

theorem witness_HaltedBlockIsDead : dead.Inv ∧ dead.halt = true ∧ dead.rst = false :=
  ⟨dead_inv, rfl, rfl⟩

theorem witness_StepRunsTheDecodedPacket : blank.cfg.legal = true ∧ blank.rst = false ∧
    blank.halt = false ∧ blank.cur = none ∧ blank.pkt = [] ∧ (Instr.setScroll 1).isHost = true ∧
    (Instr.setScroll 1).wf = true ∧
    (blank.offer [0x08, 0x01, 0x07]).cmdIn = encode (.setScroll 1) ++ [0x07] := by decide

theorem witness_StepRunsTheLatchedInstruction :
    (answering.placeInSequencer (.cmdSetContrast 1)).cfg.legal = true ∧
    (answering.placeInSequencer (.cmdSetContrast 1)).rst = false ∧
    (answering.placeInSequencer (.cmdSetContrast 1)).cur = some (.cmdSetContrast 1) ∧
    (answering.placeInSequencer (.cmdSetContrast 1)).waiting = false := by decide

/-- The piece after the first may complete the packet, leave it incomplete, or be no byte. -/
theorem witness_PacketsMayArriveInPieces : blank.cfg.legal = true ∧ blank.rst = false ∧
    blank.halt = false ∧ blank.cur = none ∧ blank.pkt = [] ∧ blank.busy = false ∧ blank.cmdIn = [] ∧
    ([0x03] : List Byte) ≠ [] ∧ decode [0x03] = .incomplete ∧
    decode ([0x03] ++ [0x05, 0x06]) = .incomplete ∧ decode ([0x03] ++ []) = .incomplete ∧
    decode ([0x03] ++ [0x05, 0x06, 0x01]) = .packet (.setPixel 5 6 1) [] := by decide

/-- An operation in progress takes no byte; its step is a next state. -/
theorem witness_NotReadyTakesNoByte :
    (answering.placeInSequencer (.ctrlCommand 0)).cmdReady = false ∧
    step (answering.placeInSequencer (.ctrlCommand 0)) =
      .next (after (step (answering.placeInSequencer (.ctrlCommand 0)))) := ⟨rfl, rfl⟩

/-- Reset in the middle of an operation, and out of a halt. -/
theorem witness_ResetFromAnyState : stuck.assertReset.cfg.legal = true ∧ stuck.assertReset.rst = true ∧
    dead.assertReset.cfg.legal = true ∧ dead.assertReset.rst = true := by decide

theorem witness_IllegalCommandCodesRefused :
    ({ defaultCodes with disp := 0xAF } : CmdCodes).disp.getLsbD 0 = true ∧
    ({ defaultCodes with segRemap := 0xA1 } : CmdCodes).segRemap.getLsbD 0 = true ∧
    ({ defaultCodes with scroll := 0x2F } : CmdCodes).scroll.getLsbD 0 = true ∧
    ({ defaultCodes with comOutDir := 0xC8 } : CmdCodes).comOutDir.getLsbD 3 = true := by decide

theorem witness_StatusBits : 4 ≤ 7 := by decide

theorem witness_StickyStateNeverFalls : ready.rst = false ∧
    step (ready.offer [0x06, 0, 0, 0, 0]) = .next (run ready [0x06, 0, 0, 0, 0]) ∧
    ready.dcState = .ready := ⟨rfl, rfl, rfl⟩

theorem witness_EveryRegisterHasItsWriters :
    exec (.setWindow 0 0 0 0) blank = .next (after (exec (.setWindow 0 0 0 0) blank)) ∧
    (after (exec (.setWindow 0 0 0 0) blank)).win ≠ blank.win := ⟨rfl, by decide⟩

theorem witness_EveryRegisterHasItsWriters_fb :
    exec (.setPixel 0 0 1) blank = .next (after (exec (.setPixel 0 0 1) blank)) ∧
    (after (exec (.setPixel 0 0 1) blank)).fb ≠ blank.fb :=
  ⟨eq_next (by decide +kernel),
    fun h => absurd (congrArg (fun m : Memory => m.read 0) h) (by decide +kernel)⟩

theorem witness_EveryRegisterHasItsWriters_fault :
    exec .render blank = .next (after (exec .render blank)) ∧
    (after (exec .render blank)).halt ≠ blank.halt ∧ (after (exec .render blank)).cause ≠ blank.cause :=
  ⟨rfl, by decide, by decide⟩

theorem witness_EveryRegisterHasItsWriters_terr :
    exec (.ctrlCommand 0xA6) (blank.answer [false]) =
      .next (after (exec (.ctrlCommand 0xA6) (blank.answer [false]))) ∧
    (after (exec (.ctrlCommand 0xA6) (blank.answer [false]))).terr ≠ (blank.answer [false]).terr :=
  ⟨rfl, by decide⟩

theorem witness_EveryRegisterHasItsWriters_init :
    exec .init answering = .next (after (exec .init answering)) ∧
    (after (exec .init answering)).dcState ≠ answering.dcState ∧
    (after (exec .init answering)).trace ≠ answering.trace := ⟨rfl, by decide, by decide +kernel⟩

theorem witness_TransactionCounts : answering.halt = false ∧
    exec .init answering = .next (after (exec .init answering)) ∧
    (after (exec .init answering)).halt = false ∧ (after (exec .init answering)).waiting = false ∧
    Instr.init.isHost = true := ⟨rfl, rfl, rfl, rfl, rfl⟩

theorem witness_TransactionCounts_render : ready.FbOk ∧ ready.WinOk ∧
    (fun s : State => (s.halt, s.waiting)) (after (exec .render ready)) = (false, false) :=
  ⟨ready_fbOk, ready_winOk, by decide +kernel⟩

theorem witness_ResetMeetsInvariant : build.legal = true := rfl

theorem witness_EveryStepKeepsInvariant : blank.Inv ∧ step blank = .next blank := ⟨blank_inv, rfl⟩

/-- The step of a state that waits, once the bus answers, is a next state too. -/
theorem witness_EveryStepKeepsInvariant_waiting : stuck.Inv ∧
    (after (step (stuck.answer [true]))).trace = [[0x80, 0xAE], [0x80, 0x20]] :=
  ⟨stuck_inv, by decide +kernel⟩

theorem witness_ReachableStepsNeverMissTheFramebuffer : blank.Inv ∧ dead.Inv ∧ stuck.Inv :=
  ⟨blank_inv, dead_inv, stuck_inv⟩

/-- `blank` with a byte offered meets the invariant too. -/
theorem offered_inv : (blank.offer [0x02]).Inv :=
  ⟨rfl, by unfold State.FbOk; decide +kernel, ⟨by decide, by decide⟩, nofun, fun _ => ⟨rfl, rfl, rfl⟩, nofun,
    nofun, nofun, rfl, fun _ => rfl, rfl, nofun, nofun, fun _ => rfl, nofun⟩

theorem witness_ReadyTakesTheOfferedByte : (blank.offer [0x02]).Inv ∧
    (blank.offer [0x02]).cmdValid = true ∧ (blank.offer [0x02]).cmdReady = true :=
  ⟨offered_inv, rfl, rfl⟩

/-- A failed run with bytes still offered, a normal end, and a run that waits. -/
theorem witness_OverIsFinal : (dead.Inv ∧ dead.rst = false ∧ dead.halt = true) ∧
    (blank.Inv ∧ blank.rst = false ∧ blank.runOver = true ∧ blank.halt = false) ∧
    (stuck.Inv ∧ stuck.rst = false ∧ stuck.waiting = true) :=
  ⟨⟨dead_inv, rfl, rfl⟩, ⟨blank_inv, rfl, rfl, rfl⟩, stuck_inv, rfl, rfl⟩

end Sys2Proof.Tests
end

section
/-! SUPPORT. The packet decoder as the inverse of the encoder, and what more bytes do to its answer
(rules R82 to R85). -/

namespace Sys2Proof

/-- The encoding of a host operation decodes to it, whatever follows (rules R82 to R84). -/
theorem decode_encode_append {i : Instr} (hi : i.isHost = true) (hw : i.wf = true)
    (rest : List Byte) : decode (encode i ++ rest) = .packet i rest := by
  cases i with
  | writeString x y str =>
    have hop : hostOp? 5#8 = some .writeString := rfl
    simp [encode, decode, hop, lenByte_toNat hw]
  | init | clear | setPixel | drawLine | setWindow | render | setScroll => rfl
  | _ => cases hi

/-- A packet the decoder reads is the encoding of a well-formed host operation, followed by the bytes
it leaves (rules R82 to R84). -/
theorem eq_encode_of_decode {bs rest : List Byte} {i : Instr} (h : decode bs = .packet i rest) :
    bs = encode i ++ rest ∧ i.isHost = true ∧ i.wf = true := by
  cases bs with
  | nil => cases h
  | cons b ops =>
    cases hop : hostOp? b with
    | none => simp [decode_illegal hop] at h
    | some op =>
      have hb := (hostOp?_eq_some b op).1 hop
      cases op <;> obtain rfl : b = _ := by simpa [hostOpTable] using hb
      case init | clear | render => cases h; exact ⟨rfl, rfl, rfl⟩
      case writeString =>
        match ops, h with
        | x :: y :: len :: chars, h =>
          simp only [decode, hop] at h
          split at h
          · next hl =>
            cases h
            have hlen : (chars.take len.toNat).length = len.toNat := by simpa using hl
            have := len.isLt
            refine ⟨?_, rfl, by simp only [Instr.wf, strFits, hlen, decide_eq_true_eq]; omega⟩
            simp [encode, hlen]
          · cases h
      case setPixel =>
        match ops, h with
        | _ :: _ :: _ :: _, h => cases h; exact ⟨rfl, rfl, rfl⟩
      case drawLine =>
        match ops, h with
        | _ :: _ :: _ :: _ :: _ :: _, h => cases h; exact ⟨rfl, rfl, rfl⟩
      case setWindow =>
        match ops, h with
        | _ :: _ :: _ :: _ :: _, h => cases h; exact ⟨rfl, rfl, rfl⟩
      case setScroll =>
        match ops, h with
        | _ :: _, h => cases h; exact ⟨rfl, rfl, rfl⟩

/-- An opcode the decoder rejects is the first byte, and no operation has it (rule R85(a)). -/
theorem eq_cons_of_decode_illegal {bs rest : List Byte} {b : Byte}
    (h : decode bs = .illegalOpcode b rest) : bs = b :: rest ∧ hostOp? b = none := by
  cases bs with
  | nil => cases h
  | cons b' ops =>
    cases hop : hostOp? b' with
    | none => rw [decode_illegal hop] at h; cases h; exact ⟨rfl, hop⟩
    | some op =>
      cases op <;> simp only [decode, hop] at h
      case init | clear | render => cases h
      case setPixel | drawLine | setWindow | setScroll => split at h <;> cases h
      case writeString =>
        split at h
        · split at h <;> cases h
        · cases h

/-- A packet that completes an unfinished one takes at least one byte more, from the front
(rule R83). -/
theorem decode_packet_takes {first more rest : List Byte} {i : Instr}
    (h0 : decode first = .incomplete) (h : decode (first ++ more) = .packet i rest) :
    ∃ taken, taken ≠ [] ∧ more = taken ++ rest := by
  obtain ⟨he, hi, hw⟩ := eq_encode_of_decode h
  rcases List.append_eq_append_iff.1 he with ⟨taken, henc, hmore⟩ | ⟨extra, hfirst, -⟩
  · refine ⟨taken, ?_, hmore⟩
    rintro rfl
    have := decode_encode_append hi hw []
    rw [henc, List.append_nil, List.append_nil, h0] at this
    cases this
  · rw [hfirst, decode_encode_append hi hw] at h0
    cases h0

/-- An illegal opcode is the first byte offered, never one that was taken before (rule R85(a)). -/
theorem decode_illegal_takes {first more rest : List Byte} {b : Byte}
    (h0 : decode first = .incomplete) (h : decode (first ++ more) = .illegalOpcode b rest) :
    first = [] ∧ more = b :: rest := by
  obtain ⟨he, hb⟩ := eq_cons_of_decode_illegal h
  cases first with
  | nil => exact ⟨rfl, he⟩
  | cons c cs =>
    obtain rfl : c = b := by simpa using congrArg List.head? he
    rw [decode_illegal hb] at h0
    cases h0

end Sys2Proof
end

section
/-! SUPPORT. What sending and running an instruction keep, and that neither is stuck in a state with a
canonical framebuffer and a legal window. -/

namespace Sys2Proof.Machine

open Config

/-- A flag shown at place `k` of a byte is bit `k` and no other. -/
theorem flagAt_getLsbD (k j : Nat) (b : Bool) :
    (flagAt k b).getLsbD j = (decide (j = k) && decide (j < 8) && b) := by
  cases b
  · simp [flagAt]
  · by_cases h : j = k
    · simp [flagAt, h]
    · have hne : j < 8 → k ≤ j → j - k ≠ 0 := by omega
      simpa [flagAt, h] using hne

/-! ### Sending, started or resumed -/

/-- A sequence starts as one resumes whose transactions are all still to be sent (rule R169). -/
theorem sendStart_eq_sendResume (i : Instr) (s : State) :
    sendStart i s = sendResume i s.seqStart := by
  simp only [sendStart, sendResume, transactions_congr i s.seqStart s rfl rfl rfl]
  rfl

/-- What a state keeps while its operation sends: registers that only grow or rise, and all that is no
part of the bus (rules R22, R24, R26, R31 and R33). -/
structure State.Grows (s t : State) : Prop where
  cfg : t.cfg = s.cfg
  ready : s.dcState = .ready → t.dcState = .ready
  halt : s.halt = true → t.halt = true
  terr : s.terr = true → t.terr = true
  trace : ∃ ts, t.trace = s.trace ++ ts

/-- `Grows` compares registers that the packet decoder and the latches do not touch. -/
theorem State.Grows.of_eq {s s' t : State} (h : s'.Grows t) (hc : s'.cfg = s.cfg)
    (hd : s'.dcState = s.dcState) (hh : s'.halt = s.halt) (ht : s.terr = true → s'.terr = true)
    (htr : s'.trace = s.trace) : s.Grows t where
  cfg := h.cfg.trans hc
  ready hr := h.ready (hd.trans hr)
  halt hr := h.halt (hh.trans hr)
  terr hr := h.terr (ht hr)
  trace := htr ▸ h.trace

theorem sendResume_grows {i : Instr} {s t : State} (h : sendResume i s = .next t) : s.Grows t := by
  obtain ⟨ts, -, ⟨-, rfl⟩ | ⟨-, rfl⟩⟩ := sendResume_cases h
  · rcases afterLast_cases i (s.sent (ts.drop s.seqIdx)) with ⟨-, h⟩ | ⟨-, h⟩ <;> rw [h] <;>
      exact ⟨rfl, by simp, by simp, by simp +contextual, _, rfl⟩
  · exact ⟨rfl, id, id, by simp +contextual [State.stalled], _, rfl⟩

theorem sendResume_cmdIn {i : Instr} {s t : State} (h : sendResume i s = .next t) :
    t.cmdIn = s.cmdIn := by
  obtain ⟨ts, -, ⟨-, rfl⟩ | ⟨-, rfl⟩⟩ := sendResume_cases h
  · rcases afterLast_cases i (s.sent (ts.drop s.seqIdx)) with ⟨-, h⟩ | ⟨-, h⟩ <;> rw [h] <;> rfl
  · rfl

theorem exec_grows {i : Instr} {s t : State} (h : exec i s = .next t) : s.Grows t := by
  cases exec_effect h with
  | fault _ _ _ _ ht => subst ht; exact ⟨rfl, id, fun _ => rfl, id, [], by simp⟩
  | draw _ _ ht => subst ht; exact ⟨rfl, id, id, id, [], by simp⟩
  | window _ _ _ _ _ _ ht => subst ht; exact ⟨rfl, id, id, id, [], by simp⟩
  | send _ _ _ hs =>
    rw [sendStart_eq_sendResume] at hs
    exact (sendResume_grows hs).of_eq rfl rfl rfl id rfl

/-- What no step out of reset undoes. -/
theorem step_grows {s t : State} (hrst : s.rst = false) (h : step s = .next t) : s.Grows t := by
  cases step_effect h with
  | reset hr => rw [hrst] at hr; cases hr
  | run _ _ _ h => exact exec_grows h
  | answer _ ok _ _ _ _ h =>
    exact (sendResume_grows h).of_eq rfl rfl rfl (by simp +contextual [terrAfter]) rfl
  | packet _ _ _ _ _ h => exact (exec_grows h).of_eq rfl rfl rfl id rfl
  | wait _ _ _ ht =>
    subst ht
    unfold State.takeAll
    split <;> exact ⟨rfl, id, id, id, [], by simp⟩
  | illegal _ _ _ _ _ ht => subst ht; exact ⟨rfl, id, fun _ => rfl, id, [], by simp⟩

/-! ### Which instruction writes what -/

/-- Sending writes the bus registers and, when INIT ends, `DC_STATE` (rules R163, R169 and R170). -/
theorem sendStart_writes {i : Instr} {s t : State} (h : sendStart i s = .next t) :
    t.fb = s.fb ∧ t.win = s.win ∧
      (t.dcState ≠ s.dcState → i = .init ∧ t.dcState = .ready) ∧
      t.halt = s.halt ∧ t.cause = s.cause ∧ t.finfo0 = s.finfo0 ∧ t.finfo1 = s.finfo1 ∧
      t.busy = t.waiting := by
  obtain ⟨ts, -, ⟨-, rfl⟩ | ⟨-, rfl⟩⟩ := sendStart_cases h
  · rcases afterLast_cases i (s.sent ts) with ⟨-, h⟩ | ⟨hi, h⟩ <;> rw [h]
    · exact ⟨rfl, rfl, (absurd rfl ·), rfl, rfl, rfl, rfl, rfl⟩
    · exact ⟨rfl, rfl, fun _ => ⟨hi, rfl⟩, rfl, rfl, rfl, rfl, rfl⟩
  · exact ⟨rfl, rfl, (absurd rfl ·), rfl, rfl, rfl, rfl, rfl⟩

/-! ### Progress -/

/-- The window invariant with the length written out (rules R23 and R120). -/
theorem State.WinOk.buflen_eq {s : State} (h : s.WinOk) :
    s.win.buflen.toNat = (s.win.endCol.toNat - s.win.startCol.toNat + 1) *
      (s.win.endPage.toNat - s.win.startPage.toNat + 1) := by
  obtain ⟨hb, hl⟩ := h
  obtain ⟨hcol, -, hpage, -⟩ := (boundsLegal_iff _ _ _ _ _).1 hb
  rw [computeLength_nat hcol hpage] at hl
  exact_mod_cast hl

/-- A rectangle of `w` columns from column `c` and `n` pages ends, laid out contiguously, before the
end of its last page. -/
theorem contiguous_le {c w n : Nat} (hn : 1 ≤ n) (hc : c + w ≤ 128) : c + w * n ≤ 128 * n := by
  calc c + w * n ≤ c * n + w * n := Nat.add_le_add_right (Nat.le_mul_of_pos_right c hn) _
    _ = (c + w) * n := (Nat.add_mul c w n).symm
    _ ≤ 128 * n := Nat.mul_le_mul_right n hc

/-- Rule R123: the slice that RENDER sends is inside the framebuffer. -/
theorem State.WinOk.slice_le {s : State} (h : s.WinOk) :
    s.win.offset + s.win.buflen.toNat ≤ s.cfg.fbLen := by
  obtain ⟨hcol, hcolw, hpage, hpages⟩ := (boundsLegal_iff _ _ _ _ _).1 h.1
  have hrun := contiguous_le (c := s.win.startCol.toNat)
    (w := s.win.endCol.toNat - s.win.startCol.toNat + 1)
    (n := s.win.endPage.toNat - s.win.startPage.toNat + 1) (by omega)
    (by simp only [width] at hcolw; omega)
  have hlen := fbLen_eq s.cfg.geom
  simp only [h.buflen_eq, Window.offset, flatIndex, width, Build.fbLen, Build.pages] at *
  omega

/-- The payload of RENDER exists and has the length of the window, which is not 0 (rules R123 and
R165). -/
theorem renderPayload_of_ok {s : State} (hf : s.FbOk) (hw : s.WinOk) :
    ∃ p, renderPayload s = some p ∧ p.length = s.win.buflen.toNat ∧ p ≠ [] := by
  obtain ⟨p, hp, hlen, -⟩ := Memory.slice_eq_reads hf hw.slice_le
  refine ⟨p, hp, hlen, ?_⟩
  rintro rfl
  have := (length_le_fbLen hw.1).1
  rw [← hw.buflen_eq, ← hlen] at this
  simp at this

/-- What an instruction sends exists (rules R52 and R123). -/
theorem transactions_of_ok {s : State} (hf : s.FbOk) (hw : s.WinOk) (i : Instr) :
    ∃ ts, transactions s i = some ts := by
  cases i with
  | render =>
    obtain ⟨p, hp, -, -⟩ := renderPayload_of_ok hf hw
    exact ⟨_, by rw [transactions, renderTransactions, hp]; rfl⟩
  | _ => exact ⟨_, rfl⟩

/-- Sending answers a next state: the operation ends or waits (rule R169). -/
theorem sendResume_next {s : State} (hf : s.FbOk) (hw : s.WinOk) (i : Instr) :
    ∃ t, sendResume i s = .next t := by
  obtain ⟨ts, hts⟩ := transactions_of_ok hf hw i
  simp only [sendResume, hts]
  rcases sendAll_cases i (ts.drop s.seqIdx) s with ⟨-, h⟩ | ⟨-, h⟩ <;> exact ⟨_, h⟩

theorem sendStart_next {s : State} (hf : s.FbOk) (hw : s.WinOk) (i : Instr) :
    ∃ t, sendStart i s = .next t := by
  rw [sendStart_eq_sendResume]
  exact sendResume_next (s := s.seqStart) hf hw i

/-- SETPIXEL plots or faults, and never misses the framebuffer (rules R52 and R110). -/
theorem setPixel_finish_next {s : State} (hf : s.FbOk) (x y : Nat) (on : Bool) :
    ∃ t, (setPixel x y on s).finish = .next t := by
  by_cases hr : inRange s.cfg x y = true
  · obtain ⟨hx, hy⟩ := (inRange_nat s.cfg x y).1 hr
    obtain ⟨b, -, hgo⟩ := setPixel_in on hf hx hy
    exact ⟨_, by rw [hgo]; rfl⟩
  · exact ⟨_, by rw [setPixel_out on (Bool.eq_false_iff.2 hr)]; rfl⟩

/-- DRAWLINE reaches its endpoint or faults at a point outside (rules R52, R133 and R136). -/
theorem drawLine_finish_next {s : State} (hf : s.FbOk) (x0 y0 x1 y1 : Int) (on : Bool) :
    ∃ t, (drawLine x0 y0 x1 y1 on s).finish = .next t := by
  obtain ⟨-, -, m, -, -, -, -, ⟨-, hgo⟩ | ⟨q, -, -, -, hstop⟩⟩ :=
    lineLoop_spec on _ 0 0 _ s (walkAt_start x0 y0 x1 y1) rfl hf
  · exact ⟨_, by rw [drawLine, stepsLeft_start, hgo]; rfl⟩
  · exact ⟨_, by rw [drawLine, stepsLeft_start, hstop]; rfl⟩

/-- An instruction run with a canonical framebuffer and a legal window answers a next state, which may
be a fault taken (rules R52 and R133). -/
theorem exec_next {s : State} (hf : s.FbOk) (hw : s.WinOk) (i : Instr) :
    ∃ t, exec i s = .next t := by
  cases i with
  | init => rw [exec, execInit]; split; exacts [⟨_, rfl⟩, sendStart_next hf hw _]
  | render => rw [exec, execRender]; split; exacts [⟨_, rfl⟩, sendStart_next hf hw _]
  | setScroll en => rw [exec, execSetScroll]; split; exacts [sendStart_next hf hw _, ⟨_, rfl⟩]
  | clear => exact ⟨_, rfl⟩
  | setPixel x y on =>
    rw [exec, execSetPixel]; split; exacts [setPixel_finish_next hf _ _ _, ⟨_, rfl⟩]
  | drawLine x0 y0 x1 y1 on =>
    rw [exec, execDrawLine]; split; exacts [drawLine_finish_next hf _ _ _ _ _, ⟨_, rfl⟩]
  | writeString x y str => obtain ⟨m, hm, -⟩ := execWriteString_cases x y str s; exact ⟨_, hm⟩
  | setWindow sc ec sp ep => rw [exec, execSetWindow]; split <;> exact ⟨_, rfl⟩
  | _ => rw [exec_eq_sendStart rfl]; exact sendStart_next hf hw _

/-- A step with `rst` asserted is a reset, whatever else holds (rule R220). -/
theorem step_of_rst {s t : State} (hr : s.rst = true) (h : step s = .next t) : t = s.resetNow := by
  simp only [step, stepOnce, hr, if_true] at h
  split at h <;> cases h
  rfl

/-- `bytes` of an unfinished packet are in the latches, and the block is busy with it (rules R25 and
R27). -/
def State.midPacket (s : State) (bytes : List Byte) : State := { s with pkt := bytes, busy := true }

/-- The decoder of a block that had taken every byte takes the next ones too (rule R25). -/
theorem takeAll_offer {s : State} {bytes : List Byte} (hin : s.cmdIn = [])
    (h : bytes ≠ [] ∨ s.busy = true) :
    (s.offer bytes).takeAll = s.midPacket (s.pkt ++ bytes) := by
  obtain ⟨cfg, epoch, fb, dcState, win, halt, cause, finfo0, finfo1, busy, terr, pkt, cur, seqIdx,
    waiting, trace, rst, cmdIn, busIn⟩ := s
  obtain rfl : cmdIn = [] := hin
  cases bytes with
  | nil => simp_all [State.takeAll, State.offer, State.midPacket]
  | cons b bs => rfl

/-- One step of an idle, running block of a legal build is a fetch (rules R25 and R32). -/
theorem step_eq_fetch {s : State} (hl : s.cfg.legal = true) (hr : s.rst = false)
    (hc : s.cur = none) (hh : s.halt = false) : step s = fetch s := by
  simp [step, stepOnce, stepLive, hl, hr, hc, hh]

end Sys2Proof.Machine
end

section
/-! SUPPORT. The invariant of rule R38, in two parts: what an operation leaves behind, and the latches
of the operation in progress. -/

namespace Sys2Proof.Machine

open Config

/-- The part of the invariant that does not speak of the latches: it holds in the middle of an
operation too (rule R38). -/
structure State.Lasting (s : State) : Prop where
  cfgLegal : s.cfg.legal = true
  fbOk : s.FbOk
  winOk : s.WinOk
  haltCause : s.halt = true → s.cause ≠ 0
  quiet : s.halt = false → s.cause = 0 ∧ s.finfo0 = 0 ∧ s.finfo1 = 0
  readyTrace : s.dcState = .ready →
    ∃ before after, s.trace = before ++ initTransactions s.cfg ++ after
  goodTrace : ∀ t ∈ s.trace, GoodTransaction t

theorem State.Inv.lasting {s : State} (h : s.Inv) : s.Lasting := { h with }

/-- Nothing is in flight in an idle block (rule R34(a)). -/
theorem State.Inv.idle_waiting {s : State} (h : s.Inv) (hc : s.cur = none) : s.waiting = false := by
  rw [Bool.eq_false_iff]
  intro hw
  obtain ⟨i, -, -, hi, -⟩ := h.inFlight hw
  rw [hc] at hi
  cases hi

/-- A block with an operation in progress is not halted (rule R208). -/
theorem State.Inv.running {s : State} (h : s.Inv) {i : Instr} (hc : s.cur = some i) :
    s.halt = false := by
  rw [Bool.eq_false_iff]
  intro hh
  rw [(h.haltIdle hh).1] at hc
  cases hc

theorem State.Inv.cur_pkt {s : State} (h : s.Inv) {i : Instr} (hc : s.cur = some i) : s.pkt = [] :=
  h.curPkt (by simp [hc])

/-! ### The lasting part -/

theorem State.Lasting.setFb {s : State} (h : s.Lasting) {m : Memory}
    (hm : s.fb.wf s.cfg.fbLen = true → m.wf s.cfg.fbLen = true) : (s.setFb m).Lasting :=
  { h with fbOk := hm h.fbOk }

/-- SETWINDOW loads a legal window and its length (rules R23 and R121). -/
theorem State.Lasting.setWin {s : State} (h : s.Lasting) {sc ec sp ep : Byte}
    (hb : boundsLegal s.cfg sc ec sp ep = true) :
    (s.setWin (Window.ofBounds sc ec sp ep)).Lasting where
  __ := h
  winOk := by
    obtain ⟨hcol, -, hpage, -⟩ := (boundsLegal_iff _ _ _ _ _).1 hb
    refine ⟨hb, ?_⟩
    rw [State.setWin_win, buflen_ofBounds hb]
    exact (computeLength_nat hcol hpage).symm

/-- More good transactions in `BUS_TRACE` (rules R33 and R90). -/
theorem State.Lasting.sent {s : State} (h : s.Lasting) {ts : List Transaction}
    (hg : ∀ t ∈ ts, GoodTransaction t) : (s.sent ts).Lasting where
  __ := h
  readyTrace hr := by
    obtain ⟨before, after, htr⟩ := h.readyTrace hr
    exact ⟨before, after ++ ts, by simp [htr]⟩
  goodTrace t ht := (List.mem_append.1 ht).elim (h.goodTrace t) (hg t)

/-- INIT may end once its transactions are the last in `BUS_TRACE` (rules R38(e) and R164). -/
theorem State.Lasting.setReady {s : State} (h : s.Lasting) {before : List Transaction}
    (htr : s.trace = before ++ initTransactions s.cfg) : s.setReady.Lasting :=
  { h with readyTrace := fun _ => ⟨before, [], by simp [htr]⟩ }

/-- An operation that ends leaves the invariant (rules R25 and R27). -/
theorem State.Lasting.endOp {s : State} (h : s.Lasting) (hp : s.pkt = []) : s.endOp.Inv where
  __ := h
  haltIdle _ := ⟨rfl, hp⟩
  pktOpen := by rw [State.endOp_pkt, hp]; rfl
  curPkt := (absurd rfl ·)
  busyIff := by simp [hp]
  curWf := nofun
  inFlight := nofun
  seqIdle _ := rfl
  initWaits := nofun

theorem Cause.code_ne_zero (c : Cause) : c.code ≠ 0 := by cases c <;> decide

/-- Fault entry leaves the invariant (rules R38(d) and R194). -/
theorem State.Lasting.faulted {s : State} (h : s.Lasting) (hp : s.pkt = []) (c : Cause) (a b : Byte) :
    (s.faulted c a b).Inv where
  __ := h.endOp hp
  haltCause _ := c.code_ne_zero
  quiet := nofun
  haltIdle _ := ⟨rfl, hp⟩

/-- The full-screen window is legal and its length is `FB_LEN` (rules R23 and R36). -/
theorem winOk_of_full {s : State} (h : s.win = Window.full s.cfg) : s.WinOk := by
  rw [State.WinOk, h, boundsLegal_iff]
  simp only [Window.full, computeLength, Build.pages, Build.fbLen]
  cases s.cfg.geom <;> decide

/-- The state after a reset of a legal build meets the invariant (rules R36 and R38). -/
theorem afterReset_inv {cfg : Build} (epoch : Nat) (cmdIn : List Byte) (busIn : List Bool)
    (hl : cfg.legal = true) : (State.afterReset cfg epoch cmdIn busIn).Inv where
  cfgLegal := hl
  fbOk := wf_freshFb cfg epoch
  winOk := winOk_of_full rfl
  haltCause := nofun
  quiet _ := ⟨rfl, rfl, rfl⟩
  readyTrace := nofun
  goodTrace := nofun
  haltIdle := nofun
  pktOpen := rfl
  curPkt := (absurd rfl ·)
  busyIff := rfl
  curWf := nofun
  inFlight := nofun
  seqIdle _ := rfl
  initWaits := nofun

/-! ### An operation that sends -/

theorem goodTransaction_of_mem_cmdTransactions {l : List Byte} {t : Transaction}
    (h : t ∈ cmdTransactions l) : GoodTransaction t := by
  obtain ⟨c, -, rfl⟩ := List.mem_map.1 h
  exact .inl ⟨c, rfl⟩

theorem goodTransaction_dataTransaction {p : List Byte} (h : p ≠ []) :
    GoodTransaction (dataTransaction p) := .inr ⟨p, h, rfl⟩

/-- Everything an instruction with an encoding sends has one of the two shapes (rule R90). -/
theorem goodTransaction_of_transactions {s : State} {i : Instr} {ts : List Transaction}
    (hf : s.FbOk) (hw : s.WinOk) (hwf : i.wf = true) (hts : transactions s i = some ts) :
    ∀ t ∈ ts, GoodTransaction t := by
  intro t ht
  cases i with
  | clear | setPixel | drawLine | writeString | setWindow => cases hts; cases ht
  | render =>
    obtain ⟨p, hp, -, hne⟩ := renderPayload_of_ok hf hw
    rw [transactions, renderTransactions, hp] at hts
    cases hts
    rcases List.mem_append.1 ht with ht | ht
    · exact goodTransaction_of_mem_cmdTransactions ht
    · rw [List.mem_singleton.1 ht]
      exact goodTransaction_dataTransaction hne
  | ctrlCommand c =>
    cases hts
    exact .inl ⟨c, List.mem_singleton.1 ht⟩
  | ctrlData p =>
    cases hts
    rw [List.mem_singleton.1 ht]
    refine goodTransaction_dataTransaction ?_
    rintro rfl
    cases hwf
  | _ => cases hts; exact goodTransaction_of_mem_cmdTransactions ht

/-- Operation `i` sends `ts`, and the first `SEQ_IDX` of them are sent and answered (rule R169). -/
structure State.Sending (s : State) (i : Instr) (ts : List Transaction) : Prop where
  lasting : s.Lasting
  pkt : s.pkt = []
  running : s.halt = false
  wf : i.wf = true
  all : transactions s i = some ts
  sofar : ∃ before, s.trace = before ++ ts.take s.seqIdx
  init : i = .init → s.dcState = .uninitialized

theorem State.Sending.good {s : State} {i : Instr} {ts : List Transaction} (h : s.Sending i ts) :
    ∀ t ∈ ts, GoodTransaction t :=
  goodTransaction_of_transactions h.lasting.fbOk h.lasting.winOk h.wf h.all

/-- When the rest is answered too the operation ends and leaves the invariant (rule R164 for INIT). -/
theorem State.Sending.ended {s : State} {i : Instr} {ts : List Transaction} (h : s.Sending i ts) :
    (afterLast i (s.sent (ts.drop s.seqIdx))).endOp.Inv := by
  have hsent : (s.sent (ts.drop s.seqIdx)).Lasting :=
    h.lasting.sent fun t ht => h.good t (List.mem_of_mem_drop ht)
  rcases afterLast_cases i (s.sent (ts.drop s.seqIdx)) with ⟨-, he⟩ | ⟨rfl, he⟩ <;> rw [he]
  · exact hsent.endOp h.pkt
  · obtain rfl : initTransactions s.cfg = ts := Option.some.inj h.all
    obtain ⟨before, htr⟩ := h.sofar
    exact (hsent.setReady (before := before) (by
      rw [State.sent_trace, htr, List.append_assoc, List.take_append_drop]; rfl)).endOp h.pkt

/-- When the bus stops answering, the first unanswered transaction is in flight (rule R169). -/
theorem State.Sending.stalled {s : State} {i : Instr} {ts : List Transaction} (h : s.Sending i ts)
    (hlt : s.busIn.length < (ts.drop s.seqIdx).length) :
    (s.stalled i (ts.drop s.seqIdx)).Inv where
  __ := h.lasting.sent (ts := (ts.drop s.seqIdx).take (s.busIn.length + 1)) fun t ht =>
    h.good t (List.mem_of_mem_drop (List.mem_of_mem_take ht))
  haltIdle hh := by cases h.running.symm.trans hh
  pktOpen := congrArg decode h.pkt
  curPkt _ := h.pkt
  busyIff := rfl
  curWf _ hi := Option.some.inj hi ▸ h.wf
  inFlight _ := by
    obtain ⟨before, htr⟩ := h.sofar
    refine ⟨i, ts, before, rfl, (transactions_congr i _ s rfl rfl rfl).trans h.all, ?_, ?_⟩
    · simp only [State.stalled, List.length_drop] at *
      omega
    · simp only [State.stalled, htr, List.append_assoc, ← List.take_add]
      rw [Nat.add_assoc]
  seqIdle := nofun
  initWaits _ hi := h.init (Option.some.inj hi)

/-- Sending goes on, to its end or to the next wait, inside the invariant. -/
theorem State.Sending.inv_of_sendResume {s t : State} {i : Instr} {ts : List Transaction}
    (h : s.Sending i ts) (hs : sendResume i s = .next t) : t.Inv := by
  obtain ⟨ts', hts, hcase⟩ := sendResume_cases hs
  obtain rfl : ts = ts' := Option.some.inj (h.all.symm.trans hts)
  rcases hcase with ⟨-, rfl⟩ | ⟨hlt, rfl⟩
  · exact h.ended
  · exact h.stalled hlt

/-- The answer to the transaction in flight counts as one more sent (rules R169 and R170). -/
theorem State.Inv.sending_answered {s : State} (h : s.Inv) {i : Instr} (hc : s.cur = some i)
    (hw : s.waiting = true) (ok : Bool) (rest : List Bool) :
    ∃ ts, (s.answered ok rest).Sending i ts := by
  obtain ⟨i', ts, before, hc', hts, -, htr⟩ := h.inFlight hw
  obtain rfl : i = i' := Option.some.inj (hc.symm.trans hc')
  exact ⟨ts, { h.lasting with }, h.cur_pkt hc, h.running hc, h.curWf i hc,
    (transactions_congr i _ s rfl rfl rfl).trans hts, ⟨before, htr⟩,
    fun hi => h.initWaits hw (hi ▸ hc)⟩

/-! ### Steps -/

/-- An instruction run from its latches leaves the invariant. -/
theorem State.Inv.exec {s t : State} (h : s.Inv) {i : Instr} (hc : s.cur = some i)
    (he : Machine.exec i s = .next t) : t.Inv := by
  have hp := h.cur_pkt hc
  cases exec_effect he with
  | fault c a b m ht _ hm => exact ht ▸ (h.lasting.setFb hm).faulted hp c a b
  | draw m _ ht hm => exact ht ▸ (h.lasting.setFb hm).endOp hp
  | window sc ec sp ep _ hb ht => exact ht ▸ (h.lasting.setWin hb).endOp hp
  | send _ h0 _ hs =>
    rw [sendStart_eq_sendResume] at hs
    obtain ⟨ts, hts, -⟩ := sendResume_cases hs
    have hsend : s.seqStart.Sending i ts :=
      ⟨{ h.lasting with }, hp, h.running hc, h.curWf i hc, hts, ⟨s.trace, by simp⟩, h0⟩
    exact hsend.inv_of_sendResume hs

/-- A packet taken and latched is an operation in progress that has sent nothing (rules R25, R27 and
R83). -/
theorem State.Inv.latched {s : State} (h : s.Inv) (hc : s.cur = none) (hh : s.halt = false)
    {i : Instr} {rest : List Byte} (hd : decode s.portBytes = .packet i rest) :
    (s.latched i rest).Inv where
  __ := h
  haltIdle hh' := by cases hh.symm.trans hh'
  pktOpen := rfl
  curPkt _ := rfl
  busyIff := rfl
  curWf _ hi := Option.some.inj hi ▸ (eq_encode_of_decode hd).2.2
  inFlight hw := by cases (h.idle_waiting hc).symm.trans hw
  initWaits hw := by cases (h.idle_waiting hc).symm.trans hw

/-- Bytes that complete no packet wait in the latches with `BUSY = 1` (rules R25 and R83). -/
theorem State.Inv.takeAll {s : State} (h : s.Inv) (hc : s.cur = none) (hh : s.halt = false)
    (hd : decode s.portBytes = .incomplete) : s.takeAll.Inv := by
  unfold State.takeAll
  split
  · exact h
  · next hne =>
    exact {
      h with
      haltIdle := fun hh' => by cases hh.symm.trans hh'
      pktOpen := hd
      curPkt := (absurd hc ·)
      busyIff := by simp_all [State.portBytes]
      inFlight := fun hw => by cases (h.idle_waiting hc).symm.trans hw }

/-- Rule R38: one step keeps the invariant. -/
theorem State.Inv.step {s t : State} (h : s.Inv) (hs : Machine.step s = .next t) : t.Inv := by
  cases step_effect hs with
  | reset _ ht => exact ht ▸ afterReset_inv _ _ _ h.cfgLegal
  | run i hc _ he => exact h.exec hc he
  | answer i ok rest hc hw _ hr =>
    obtain ⟨ts, hsend⟩ := h.sending_answered hc hw ok rest
    exact hsend.inv_of_sendResume hr
  | packet i rest hc hh hd he => exact (h.latched hc hh hd).exec rfl he
  | wait hc hh hd ht => exact ht ▸ h.takeAll hc hh hd
  | illegal b rest _ _ _ ht =>
    have hdropped : (s.dropped rest).Lasting := { h.lasting with }
    exact ht ▸ hdropped.faulted rfl _ _ _

end Sys2Proof.Machine
end

section
/-! PROOF. The statements of spec/10_state.md: what every step keeps, who writes what, and the command
port. -/

open Sys2Proof Sys2Proof.Machine Sys2Proof.Config

/-- Settles O53: the lasting part of the invariant is kept by every effect of an instruction, and a
step adds the latches of the operation in progress to it. -/
theorem everyStepKeepsInvariant : Obligations.EveryStepKeepsInvariant :=
  fun _ _ h hs => h.step hs

/-- Settles O45: an idle controller alone takes bytes; one that is idle and not ready is being reset. -/
theorem notReadyTakesNoByte : Obligations.NotReadyTakesNoByte := by
  intro s t hready h
  cases step_effect h with
  | reset _ ht => subst ht; rfl
  | run _ _ _ he => exact (exec_keeps he).2.2.2.1
  | answer _ _ _ _ _ _ hs => exact (sendResume_cmdIn hs :)
  | packet _ _ hc hh | wait hc hh | illegal _ _ hc hh =>
    have hrst : s.rst = true := by simpa [State.cmdReady, hc, hh] using hready
    exact step_of_rst hrst h ▸ rfl

/-- Settles O49, from what every effect of a step out of reset lets only grow or rise. -/
theorem stickyStateNeverFalls : Obligations.StickyStateNeverFalls := by
  intro s t hrst h
  obtain ⟨hcfg, hready, hhalt, hterr, htrace⟩ := step_grows hrst h
  exact ⟨hcfg, hready, hhalt, hterr, htrace⟩

/-- Settles O50, by the four effects an instruction can have: a fault, a drawing, a new window, or
sending. -/
theorem everyRegisterHasItsWriters : Obligations.EveryRegisterHasItsWriters := by
  intro s t i h
  have hkeeps := exec_keeps h
  have hterr : t.terr ≠ s.terr → t.terr = true := by
    intro hne
    cases hs : s.terr with
    | true => exact (exec_grows h).terr hs
    | false => simpa [hs] using hne
  cases exec_effect h with
  | fault c a b m ht hm _ hr =>
    subst ht
    refine ⟨fun hfb => .inr (.inr (.inl ?_)), (absurd rfl ·), (absurd rfl ·),
      fun _ => ⟨rfl, c, hr, rfl⟩, by simp, hterr, rfl, hkeeps⟩
    by_contra hno
    exact hfb (hm fun x0 y0 x1 y1 on hi => hno ⟨x0, y0, x1, y1, on, hi⟩)
  | draw m hi ht =>
    subst ht
    exact ⟨fun _ => hi, (absurd rfl ·), (absurd rfl ·), by simp, by simp, hterr, rfl, hkeeps⟩
  | window sc ec sp ep hi _ ht =>
    subst ht
    exact ⟨(absurd rfl ·), fun _ => ⟨sc, ec, sp, ep, hi⟩, (absurd rfl ·), by simp, by simp,
      hterr, rfl, hkeeps⟩
  | send hi _ _ hs =>
    obtain ⟨hfb, hwin, hdc, hhalt, hcause, hf0, hf1, hbusy⟩ := sendStart_writes hs
    exact ⟨(absurd hfb ·), (absurd hwin ·), hdc, by simp [hhalt, hcause, hf0, hf1], fun _ => hi,
      hterr, hbusy, hkeeps⟩

/-- Settles O56: each of the three answers of the decoder takes bytes, because the bytes taken before
are an unfinished packet; and a whole packet runs to a next state. -/
theorem readyTakesTheOfferedByte : Obligations.ReadyTakesTheOfferedByte := by
  intro s hinv hvalid hready
  have hne : s.cmdIn ≠ [] := by simpa [State.cmdValid] using hvalid
  obtain ⟨⟨hc, hh⟩, hr⟩ : (s.cur = none ∧ s.halt = false) ∧ s.rst = false := by
    simpa [State.cmdReady] using hready
  rw [step_eq_fetch hinv.cfgLegal hr hc hh, fetch]
  cases hd : decode s.portBytes with
  | packet i rest =>
    obtain ⟨t, ht⟩ := exec_next (s := s.latched i rest) hinv.fbOk hinv.winOk i
    obtain ⟨taken, htaken, hsplit⟩ := decode_packet_takes hinv.pktOpen hd
    exact ⟨t, taken, ht, htaken, by rw [(exec_keeps ht).2.2.2.1]; exact hsplit⟩
  | incomplete =>
    exact ⟨s.takeAll, s.cmdIn, rfl, hne, by simp [State.takeAll, hne]⟩
  | illegalOpcode b rest =>
    exact ⟨_, [b], rfl, by simp, (decode_illegal_takes hinv.pktOpen hd).2⟩

/-- Settles O43: of the tests that come before the meaning, for the build, for `rst`, for an operation in
progress and for a transaction in flight, each is decided by a hypothesis. -/
theorem stepRunsTheLatchedInstruction : Obligations.StepRunsTheLatchedInstruction := by
  intro s i hl hr hc hw
  simp [step, stepOnce, stepLive, proceed, hl, hr, hc, hw]

/-- Settles O44: both blocks have the same bytes at the decoder, and what it makes of them ends in the
same latches. -/
theorem packetsMayArriveInPieces : Obligations.PacketsMayArriveInPieces := by
  intro s first later hl hr hh hc hp hb hin hne hd
  change step (s.offer first) = .next (s.midPacket first) ∧
    step ((s.midPacket first).offer later) = step (s.offer (first ++ later))
  have hwhole : ∀ bytes, (s.offer bytes).portBytes = bytes := by simp [State.portBytes, hp, hin]
  have hpieces : ((s.midPacket first).offer later).portBytes = first ++ later := by
    simp [State.portBytes, State.midPacket, hin]
  refine ⟨?_, ?_⟩
  · rw [step_eq_fetch (s := s.offer first) hl hr hc hh, fetch, hwhole, hd]
    simp only [takeAll_offer hin (.inl hne), hp, List.nil_append]
  · rw [step_eq_fetch (s := s.offer (first ++ later)) hl hr hc hh,
      step_eq_fetch (s := (s.midPacket first).offer later) hl hr hc hh, fetch, fetch, hwhole, hpieces]
    cases decode (first ++ later) with
    | packet i rest => rfl
    | incomplete =>
      refine congrArg _ ((takeAll_offer (s := s.midPacket first) hin (.inr rfl)).trans ?_)
      rw [takeAll_offer hin (.inl (by simp [hne])), hp]
      rfl
    | illegalOpcode b0 rest => rfl

/-- Settles O48: each flag of `STATUS` is one bit, at a place of its own. -/
theorem statusBits : Obligations.StatusBits := by
  intro s
  simp only [State.status, BitVec.getLsbD_or, flagAt_getLsbD]
  refine ⟨by simp, by simp, by simp, by simp, fun k hk => ?_⟩
  have : k ≠ 0 ∧ k ≠ 1 ∧ k ≠ 2 ∧ k ≠ 3 := by omega
  simp [this]

/-- Settles O52: `State.reset` is the reset of the default build, whose codes are legal. -/
theorem resetMeetsInvariant : Obligations.ResetMeetsInvariant :=
  ⟨afterReset_inv 0 [] [] rfl, fun _ epoch cmdIn busIn hl => afterReset_inv epoch cmdIn busIn hl⟩
end

section
/-! SUPPORT. Where a step goes when the framebuffer has its canonical form and the window is legal. -/

namespace Sys2Proof.Machine

/-- A step out of reset of a legal build. -/
theorem step_eq_stepLive {s : State} (hl : s.cfg.legal = true) (hr : s.rst = false) :
    step s = stepLive s := by
  simp [step, stepOnce, hl, hr]

/-- A fetch takes bytes, runs a packet or takes the fault of an illegal opcode: it never stops
(rules R52, R83 and R85). -/
theorem fetch_next {s : State} (hf : s.FbOk) (hw : s.WinOk) : ∃ t, fetch s = .next t := by
  rw [fetch]
  split
  · next i rest _ => exact exec_next (s := s.latched i rest) hf hw i
  · exact ⟨_, rfl⟩
  · exact ⟨_, rfl⟩

/-- An operation in progress goes on, or waits for an answer that is not there (rule R169). -/
theorem proceed_next_or_stalled {s : State} (hf : s.FbOk) (hw : s.WinOk) (i : Instr) :
    (∃ t, proceed i s = .next t) ∨
      (proceed i s = .fault .busStalled ∧ s.waiting = true ∧ s.busIn = []) := by
  cases hwait : s.waiting with
  | false => exact .inl (by simpa [proceed, hwait] using exec_next hf hw i)
  | true =>
    simp only [proceed, hwait, if_true, resume]
    cases s.busIn with
    | nil => exact .inr ⟨rfl, trivial, rfl⟩
    | cons ok rest => exact .inl (sendResume_next (s := s.answered ok rest) hf hw i)

end Sys2Proof.Machine
end

section
/-! PROOF. The statement of spec/20_memory.md: where a block that meets the invariant can stop. -/

open Sys2Proof Sys2Proof.Machine

/-- Settles O54: a reset always steps; out of reset the operation in progress goes on or waits for the
bus, and a block with none is halted or fetches. -/
theorem reachableStepsNeverMissTheFramebuffer :
    Obligations.ReachableStepsNeverMissTheFramebuffer := by
  intro s hinv
  cases hr : s.rst with
  | true => exact .inl ⟨s.resetNow, by simp [step, stepOnce, hinv.cfgLegal, hr]⟩
  | false =>
    rw [step_eq_stepLive hinv.cfgLegal hr, stepLive]
    cases s.cur with
    | some i => exact (proceed_next_or_stalled hinv.fbOk hinv.winOk i).imp_right .inr
    | none =>
      cases hh : s.halt with
      | true => exact .inr (.inl ⟨rfl, rfl⟩)
      | false => exact .inl (by simpa using fetch_next hinv.fbOk hinv.winOk)
end

section
/-! SUPPORT. What a display command sends, and what an idle block has at its decoder. -/

namespace Sys2Proof

/-- Before its last byte an encoding is unfinished: a packet or an illegal opcode read from its first
bytes would be read from the whole of it too (rule R83). -/
theorem decode_take_encode {i : Instr} {n : Nat} (hi : i.isHost = true) (hw : i.wf = true)
    (hn : n < (encode i).length) : decode ((encode i).take n) = .incomplete := by
  have hwhole := decode_encode_append hi hw []
  rw [List.append_nil, ← List.take_append_drop n (encode i)] at hwhole
  cases hd : decode ((encode i).take n) with
  | incomplete => rfl
  | packet j rest =>
    obtain ⟨he, hj, hwj⟩ := eq_encode_of_decode hd
    rw [he, List.append_assoc, decode_encode_append hj hwj] at hwhole
    injection hwhole with _ hrest
    have hdrop := congrArg List.length (List.append_eq_nil_iff.1 hrest).2
    rw [List.length_drop, List.length_nil] at hdrop
    omega
  | illegalOpcode b rest =>
    obtain ⟨he, hb⟩ := eq_cons_of_decode_illegal hd
    rw [he, List.cons_append, decode_illegal hb] at hwhole
    cases hwhole

/-- `NAME|v` as the spec writes it (rule R92): the code with the value OR-ed in, zero included. -/
theorem orBit_eq_or (code mask : Byte) (v : Bool) :
    orBit code mask v = code ||| if v then mask else 0x00 := by
  cases v <;> simp [orBit]

end Sys2Proof

namespace Sys2Proof.Machine

/-- A display command sends its command bytes and nothing else (rules R91 and R161). -/
theorem transactions_of_isCommand {i : Instr} (hi : i.isCommand = true) (s : State) :
    transactions s i = some (cmdTransactions (commandBytes s.cfg.cmd i)) := by
  cases i with
  | init | clear | setPixel | drawLine | writeString | setWindow | render | setScroll
  | ctrlCommand | ctrlData => cases hi
  | _ => rfl

/-- A display command with an answer for each of its bytes sends each as one command transaction, and
changes nothing else (rules R91 and R161). -/
theorem exec_of_isCommand {i : Instr} (hi : i.isCommand = true) {s : State}
    (h : (commandBytes s.cfg.cmd i).length ≤ s.busIn.length) :
    exec i s = .next (s.sent (cmdTransactions (commandBytes s.cfg.cmd i))).endOp := by
  obtain ⟨hhost, -⟩ : i.isHost = false ∧ i.isFraming = false := by
    simpa [Instr.isCommand] using hi
  rw [exec_eq_sendStart hhost,
    sendStart_enough i s _ (transactions_of_isCommand hi s) (by simpa using h)]
  rcases afterLast_cases i (s.sent (cmdTransactions (commandBytes s.cfg.cmd i))) with
    ⟨-, hlast⟩ | ⟨rfl, -⟩
  · rw [hlast]
  · cases hhost

/-- With no byte of a packet taken, the decoder has the offered bytes (rule R28). -/
theorem State.portBytes_of_pkt {s : State} (hp : s.pkt = []) : s.portBytes = s.cmdIn := by
  simp [State.portBytes, hp]

end Sys2Proof.Machine
end

section
/-! PROOF. The statements of spec/30_encoding.md: the host packets, the display commands, the bus
framings, and what a step does with a packet. -/

open Sys2Proof Sys2Proof.Machine Sys2Proof.Config

/-- Settles O1, by the cases of the host operations; a string that fits has its length in one byte. -/
theorem hostPacketsRoundTrip : Obligations.HostPacketsRoundTrip :=
  fun _ rest hi hw => decode_encode_append hi hw rest

/-- Settles O2, by the cases of the opcode byte. -/
theorem decoderTakesExactlyThePacket : Obligations.DecoderTakesExactlyThePacket :=
  fun _ _ _ h => eq_encode_of_decode h

/-- Settles O3: a reading that comes too early contradicts the round trip of the whole packet. -/
theorem decoderWaitsForTheLastByte : Obligations.DecoderWaitsForTheLastByte :=
  fun _ _ hi hw hn => decode_take_encode hi hw hn

/-- Settles O26: each command has one byte, written with an OR where a bit goes in. -/
theorem bareAndOredCommandsSendOneByte : Obligations.BareAndOredCommandsSendOneByte := by
  intro s v h
  simp only [← orBit_eq_or]
  refine ⟨?_, ?_, ?_, ?_, ?_, ?_, ?_⟩ <;> exact exec_of_isCommand rfl h

/-- Settles O27: each command has two bytes, the code and the parameter. -/
theorem oneParameterCommandsSendTwoBytes : Obligations.OneParameterCommandsSendTwoBytes := by
  intro s p h
  refine ⟨?_, ?_, ?_, ?_, ?_, ?_, ?_, ?_, ?_⟩ <;> exact exec_of_isCommand rfl h

/-- Settles O28: two commands have three bytes, the scroll set-up has seven. -/
theorem addressAndScrollCommandsSendTheirBytes :
    Obligations.AddressAndScrollCommandsSendTheirBytes :=
  fun _ _ _ _ _ _ _ =>
    ⟨fun h => ⟨exec_of_isCommand rfl h, exec_of_isCommand rfl h⟩,
      fun h => exec_of_isCommand rfl h⟩

/-- Settles O4: the formats are the encoder's, and a string that fits has its length in one byte. -/
theorem packetFormats : Obligations.PacketFormats := by
  refine ⟨rfl, rfl, fun _ _ _ => rfl, fun _ _ _ _ _ => rfl, fun x y str hlen => ?_,
    fun _ _ _ _ => rfl, rfl, fun _ => rfl⟩
  have hbyte := lenByte_toNat (str := str) (by simpa [strFits] using hlen)
  refine ⟨BitVec.ofNat 8 str.length, hbyte, rfl, ?_⟩
  rw [hbyte, encode]
  simp only [List.length_cons]
  omega

/-- Settles O5: the default code of a command, with its bit set or clear, matches the row of that
command and none before it. -/
theorem displayCommandsRoundTrip : Obligations.DisplayCommandsRoundTrip := by
  intro i rest hi
  cases i with
  | cmdSetDisp v | cmdSetSegRemap v | cmdSetComOutDir v | cmdSetScroll v => cases v <;> rfl
  | init | clear | setPixel | drawLine | writeString | setWindow | render | setScroll
  | ctrlCommand | ctrlData => cases hi
  | _ => rfl

/-- Settles O6, by the control byte and the number of bytes after it. -/
theorem transactionsAreFramings : Obligations.TransactionsAreFramings := by
  refine ⟨fun t i h => ?_, ?_⟩
  · cases t with
    | nil => cases h
    | cons b ps =>
      simp only [decodeFraming] at h
      split at h
      · next hb =>
        subst hb
        match ps, h with
        | [c], h => cases h; exact ⟨.inl ⟨c, rfl⟩, rfl, rfl⟩
      · split at h
        · next hb =>
          subst hb
          match ps, h with
          | p :: r, h => cases h; exact ⟨.inr ⟨p :: r, by simp, rfl⟩, rfl, rfl⟩
        · cases h
  · rintro _ (⟨c, rfl⟩ | ⟨p, hp, rfl⟩)
    · exact ⟨.ctrlCommand c, rfl⟩
    · cases p with
      | nil => exact absurd rfl hp
      | cons p r => exact ⟨.ctrlData (p :: r), rfl⟩

/-- Settles O7, by running the decoders on the words. -/
theorem wordsOfTheSpecDecode : Obligations.WordsOfTheSpecDecode :=
  ⟨rfl, rfl, rfl, rfl, rfl, rfl, rfl⟩

/-- Settles O30: the bring-up list writes the same bytes, with the OR of a clear bit written out. -/
theorem bringUpListIsItsCommands : Obligations.BringUpListIsItsCommands := by
  intro cfg
  have hpin : comPinCfg cfg = if cfg.geom = .g128x64 then 0x12 else 0x02 := by
    cases hg : cfg.geom <;> simp [comPinCfg, hg]
  refine congrArg cmdTransactions ?_
  simp [initSeq, commandBytes, orBit, muxRatio, hpin]

/-- Settles O40: the decoder rejects the byte whatever follows, and takes nothing after it. -/
theorem illegalOpcodeFaultsAtOnce : Obligations.IllegalOpcodeFaultsAtOnce := by
  intro s b0 rest hl hr hh hc hp hin hb0
  rw [step_eq_fetch hl hr hc hh, fetch, State.portBytes_of_pkt hp, hin,
    decode_illegal ((hostOp?_eq_none b0).2 hb0)]
  simp [raise, State.faulted, State.endOp, State.dropped, hp]

/-- Settles O42: an idle block fetches, and the decoder reads the packet back as its operation. -/
theorem stepRunsTheDecodedPacket : Obligations.StepRunsTheDecodedPacket := by
  intro s i rest hl hr hh hc hp hi hw hin
  rw [step_eq_fetch hl hr hc hh, fetch, State.portBytes_of_pkt hp, hin, decode_encode_append hi hw]
  simp only [State.latched, hp]

/-- Settles O47: each of the four bits makes the build illegal, which a step tests first. -/
theorem illegalCommandCodesRefused : Obligations.IllegalCommandCodesRefused := by
  intro s h
  have hl : s.cfg.legal = false := by
    rw [Build.legal, CmdCodes.legal]
    rcases h with h | h | h | h <;> simp [h]
  simp [step, stepOnce, hl]
end

section
/-! SUPPORT. SETPIXEL on a display point as one equation, and two pixels set one after the other. -/

namespace Sys2Proof.Machine

open Config

@[simp] theorem State.endOp_pixel? (s : State) (x y : Nat) : s.endOp.pixel? x y = s.pixel? x y := rfl

theorem Memory.read_write_of_eq (m : Memory) {a a' : Nat} (h : a = a') (b : Byte) :
    (m.write a b).read a' = some b := h ▸ m.read_write_same a b

/-! ### One byte -/

/-- Setting one pixel of a byte twice is setting it once (rule R113(b)). -/
theorem pixelByte_pixelByte_same (b : Byte) (y : Nat) (v : Bool) :
    pixelByte (pixelByte b (bitMask y) v) (bitMask y) v = pixelByte b (bitMask y) v := by
  refine BitVec.eq_of_getLsbD_eq fun k hk => ?_
  simp only [pixelByte_getLsbD _ _ _ _ hk]
  split <;> rfl

/-- Two rows of one byte may be set in either order (rule R113(d)). -/
theorem pixelByte_comm (b : Byte) {y y' : Nat} (v v' : Bool) (h : y % 8 ≠ y' % 8) :
    pixelByte (pixelByte b (bitMask y) v) (bitMask y') v' =
      pixelByte (pixelByte b (bitMask y') v') (bitMask y) v := by
  refine BitVec.eq_of_getLsbD_eq fun k hk => ?_
  simp only [pixelByte_getLsbD _ _ _ _ hk]
  split_ifs with h' h''
  · exact absurd (h''.symm.trans h') h
  all_goals rfl

/-! ### The instruction -/

/-- SETPIXEL on a point of the display with a legal flag (rule R111). -/
theorem exec_setPixel_in {s : State} {x y on : Byte} (hf : s.FbOk) (hon : on = 0x00 ∨ on = 0x01)
    (hx : x.toNat < width) (hy : y.toNat < s.cfg.height) :
    ∃ b, s.fbRead (byteIndex x.toNat y.toNat) = some b ∧
      exec (.setPixel x y on) s =
        .next (s.setFb (s.fb.write (byteIndex x.toNat y.toNat)
          (pixelByte b (bitMask y.toNat) (on == 0x01)))).endOp := by
  obtain ⟨b, hb, hgo⟩ := setPixel_in (flagBit on) hf hx hy
  refine ⟨b, hb, ?_⟩
  rw [exec, execSetPixel, if_pos ((flagLegal_iff on).2 hon), hgo, flagBit_of_legal hon, Flow.finish]

/-- SETPIXEL tests its flag operand first, whatever the point (rule R197). -/
theorem exec_setPixel_illegal {on : Byte} (h0 : on ≠ 0x00) (h1 : on ≠ 0x01) (s : State) (x y : Byte) :
    exec (.setPixel x y on) s = .next (s.faulted .illegalOperand 0x03 on) := by
  simp [exec, execSetPixel, flagLegal_eq_false h0 h1, raise]

/-- SETPIXEL with a legal flag outside the display: the fault reports the operand bytes (rule R110). -/
theorem exec_setPixel_out {s : State} {x y on : Byte} (hon : on = 0x00 ∨ on = 0x01)
    (h : width ≤ x.toNat ∨ s.cfg.height ≤ y.toNat) :
    exec (.setPixel x y on) s = .next (s.faulted .pixelRange x y) := by
  have hr : inRange s.cfg x.toNat y.toNat = false := by
    rw [← Bool.not_eq_true, inRange_nat]
    omega
  rw [exec, execSetPixel, if_pos ((flagLegal_iff on).2 hon), setPixel_out _ hr]
  simp [Flow.finish, raise]

/-! ### Two pixels -/

/-- Two pixels set in turn; `c` is the byte of the second point once the first is set. -/
theorem setPixel_andThen_setPixel {s : State} {x y x' y' : Nat} {b c : Byte} (v v' : Bool)
    (hx : x < width) (hy : y < s.cfg.height) (hx' : x' < width) (hy' : y' < s.cfg.height)
    (hb : s.fb.read (byteIndex x y) = some b)
    (hc : (s.fb.write (byteIndex x y) (pixelByte b (bitMask y) v)).read (byteIndex x' y') = some c) :
    (setPixel x y v s).andThen (setPixel x' y' v') =
      .go (s.setFb ((s.fb.write (byteIndex x y) (pixelByte b (bitMask y) v)).write
        (byteIndex x' y') (pixelByte c (bitMask y') v'))) := by
  rw [setPixel_of_read v hx hy hb, Flow.andThen]
  exact setPixel_of_read v' hx' hy' hc

/-- Rule R113(b). -/
theorem setPixel_twice {s : State} {x y : Nat} (v : Bool) (hf : s.FbOk) (hx : x < width)
    (hy : y < s.cfg.height) : (setPixel x y v s).andThen (setPixel x y v) = setPixel x y v s := by
  obtain ⟨b, hb, hgo⟩ := setPixel_in v hf hx hy
  rw [setPixel_andThen_setPixel v v hx hy hx hy hb (Memory.read_write_same ..), hgo,
    Memory.write_write_same, pixelByte_pixelByte_same]

/-- Rule R113(d), two points of one byte: the order of the two rows in the byte does not matter. -/
theorem setPixel_comm_of_same_byte {s : State} {x y y' : Nat} (v v' : Bool) (hf : s.FbOk)
    (hx : x < width) (hy : y < s.cfg.height) (hy' : y' < s.cfg.height)
    (hi : byteIndex x y = byteIndex x y') (hne : y % 8 ≠ y' % 8) :
    (setPixel x y v s).andThen (setPixel x y' v') =
      (setPixel x y' v' s).andThen (setPixel x y v) := by
  obtain ⟨b, hb⟩ := Memory.read_of_wf hf (byteIndex_lt s.cfg x y hx hy)
  rw [setPixel_andThen_setPixel v v' hx hy hx hy' hb (Memory.read_write_of_eq _ hi _),
    setPixel_andThen_setPixel v' v hx hy' hx hy (hi ▸ hb)
      (Memory.read_write_of_eq _ hi.symm _),
    ← hi, Memory.write_write_same, Memory.write_write_same, pixelByte_comm b v v' hne]

/-- Rule R113(d), two points of different bytes: the two writes do not meet. -/
theorem setPixel_comm_of_byte_ne {s : State} {x y x' y' : Nat} (v v' : Bool) (hf : s.FbOk)
    (hx : x < width) (hy : y < s.cfg.height) (hx' : x' < width) (hy' : y' < s.cfg.height)
    (hi : byteIndex x y ≠ byteIndex x' y') :
    (setPixel x y v s).andThen (setPixel x' y' v') =
      (setPixel x' y' v' s).andThen (setPixel x y v) := by
  have ha := byteIndex_lt s.cfg x y hx hy
  have ha' := byteIndex_lt s.cfg x' y' hx' hy'
  obtain ⟨b, hb⟩ := Memory.read_of_wf hf ha
  obtain ⟨c, hc⟩ := Memory.read_of_wf hf ha'
  rw [setPixel_andThen_setPixel v v' hx hy hx' hy' hb
      ((Memory.read_write_ne _ _ _ _ hi.symm).trans hc),
    setPixel_andThen_setPixel v' v hx' hy' hx hy hc ((Memory.read_write_ne _ _ _ _ hi).trans hb),
    Memory.write_comm hf ha ha' hi]

end Sys2Proof.Machine
end

section
/-! PROOF. The statements of spec/40_pixel.md: CLEAR, SETPIXEL and the primitive `SetPixel`. -/

open Sys2Proof Sys2Proof.Machine Sys2Proof.Config

/-- Settles O8: the framebuffer that CLEAR stores is all zeros, and each of its indices reads so. -/
theorem clearZeroFills : Obligations.ClearZeroFills :=
  ⟨rfl, fun s => ⟨Memory.zeros s.cfg.fbLen, rfl, Memory.wf_zeros _, fun a ha => by
    rw [Memory.read_zeros, if_pos ha]⟩⟩

/-- Settles O9, by the order of the checks: flag operand, then range, then the one bit is written. -/
theorem setPixelSetsOneBitOrFaults : Obligations.SetPixelSetsOneBitOrFaults := by
  refine fun s x y on => ⟨rfl, fun hf hon hx hy => ?_,
    fun h0 h1 => exec_setPixel_illegal h0 h1 s x y, exec_setPixel_out⟩
  obtain ⟨b, hb, he⟩ := exec_setPixel_in hf hon hx hy
  exact ⟨b, hb, by
    simpa only [byteIndex, flatIndex, pageOf, pixelByte, bitMask, beq_iff_eq] using he⟩

/-- Settles O10: the one byte written keeps the framebuffer's form, and has the asked bit alone
changed. -/
theorem setPixelChangesOnePixel : Obligations.SetPixelChangesOnePixel := by
  intro s x y on hf hon hx hy
  obtain ⟨b, hb, he⟩ := exec_setPixel_in hf hon hx hy
  have hpix := pixel?_after_write s x.toNat y.toNat (b := b) (on := on == 0x01) (hx := hx) (hb := hb)
  refine ⟨_, he, Memory.wf_write hf (byteIndex_lt s.cfg _ _ hx hy) _, ?_, fun x' y' hx' _ hne => ?_⟩
  · rw [State.endOp_pixel?, hpix _ _ hx, if_pos ⟨rfl, rfl⟩]
  · rw [State.endOp_pixel?, hpix _ _ hx', if_neg (by simpa using hne)]

/-- Settles O11: two different points lie in two bytes, or in two rows of one byte. -/
theorem setPixelRepeatsAndCommutes : Obligations.SetPixelRepeatsAndCommutes := by
  refine fun s x y x' y' v v' hf hx hy hx' hy' => ⟨setPixel_twice v hf hx hy, fun hne => ?_⟩
  by_cases hi : byteIndex x y = byteIndex x' y'
  · obtain ⟨rfl, hp⟩ := byteIndex_inj hx hx' hi
    have hrow : y % 8 ≠ y' % 8 := fun hr => hne (congrArg (Prod.mk x) (by omega))
    exact setPixel_comm_of_same_byte v v' hf hx hy hy' hi hrow
  · exact setPixel_comm_of_byte_ne v v' hf hx hy hx' hy' hi
end

section
/-! SUPPORT. The two outcomes of SETWINDOW, and the least length of a legal window. -/

namespace Sys2Proof.Machine

/-- SETWINDOW on legal bounds loads all five registers (rule R121). -/
theorem exec_setWindow_legal {s : State} {sc ec sp ep : Byte}
    (hb : boundsLegal s.cfg sc ec sp ep = true) :
    exec (.setWindow sc ec sp ep) s = .next (s.setWin (Window.ofBounds sc ec sp ep)).endOp :=
  if_pos hb

/-- SETWINDOW on any other bounds takes the fault and loads nothing (rule R121). -/
theorem exec_setWindow_illegal {s : State} {sc ec sp ep : Byte}
    (hb : ¬ boundsLegal s.cfg sc ec sp ep = true) :
    exec (.setWindow sc ec sp ep) s = .next (s.faulted .windowInvalid 0x00 0x00) :=
  if_neg hb

/-- A legal window is not empty (rule R123). -/
theorem State.WinOk.one_le_buflen {s : State} (h : s.WinOk) : 1 ≤ s.win.buflen.toNat :=
  h.buflen_eq ▸ (length_le_fbLen h.1).1

end Sys2Proof.Machine
end

section
/-! PROOF. The statements of spec/41_window.md: SETWINDOW, and the slice of a legal window. -/

open Sys2Proof Sys2Proof.Machine

/-- Settles O12: the statement's condition is `boundsLegal`, which SETWINDOW tests, and under it the
product is at most `FB_LEN`, so the eleven bits of `buflen` hold it. -/
theorem setWindowLoadsBoundsOrFaults : Obligations.SetWindowLoadsBoundsOrFaults := by
  intro s sc ec sp ep
  have hiff := boundsLegal_iff s.cfg sc ec sp ep
  refine ⟨rfl, fun hcol hcolw hpage hpages => ?_,
    fun hbad => exec_setWindow_illegal (mt hiff.1 hbad)⟩
  have hb := hiff.2 ⟨hcol, hcolw, hpage, hpages⟩
  have hlen := buflen_ofBounds hb
  obtain ⟨hpos, hle, -⟩ := length_le_fbLen hb
  exact ⟨(Window.ofBounds sc ec sp ep).buflen, hlen, hlen ▸ hpos, hlen ▸ hle,
    exec_setWindow_legal hb⟩

/-- Settles O13: a legal window has at least one byte, and its contiguous run from `WindowOffset()`
ends inside the framebuffer. -/
theorem windowSliceInsideFramebuffer : Obligations.WindowSliceInsideFramebuffer :=
  fun _ h => ⟨h.one_le_buflen, h.slice_le⟩
end

section
/-! SUPPORT. The walk of a line point by point, and what DRAWLINE does along it (rules R130 to R136). -/

namespace Sys2Proof.Machine

open Config

/-- The walk from `(x0, y0)` to `(x1, y1)` is at `c` after `i` steps in x and `j` steps in y. -/
abbrev Walk (x0 y0 x1 y1 i j : Int) (c : LinePoint) : Prop :=
  WalkAt (lineParams x0 y0 x1 y1) x0 y0 (x1 - x0).natAbs (y1 - y0).natAbs i j c

variable {x0 y0 x1 y1 i j : Int} {c : LinePoint}

/-! ### One point -/

/-- On one axis, different numbers of steps give different coordinates. -/
theorem eq_of_sign_mul_eq {v k k' : Int} (h : sign v * k = sign v * k') (hk : 0 ≤ k)
    (hkv : k ≤ v.natAbs) (hk' : 0 ≤ k') (hkv' : k' ≤ v.natAbs) : k = k' := by
  by_cases hv : sign v = 0
  · have := sign_eq_zero hv
    omega
  · exact mul_left_cancel₀ hv h

/-- The point tells how many steps the walk has made. -/
theorem Walk.steps_unique {i' j' : Int} {c' : LinePoint} (h : Walk x0 y0 x1 y1 i j c)
    (h' : Walk x0 y0 x1 y1 i' j' c') (hc : c.point = c'.point) : i = i' ∧ j = j' := by
  obtain ⟨hx, hy⟩ := Prod.mk.inj hc
  rw [h.cx, h'.cx, add_right_inj] at hx
  rw [h.cy, h'.cy, add_right_inj] at hy
  exact ⟨eq_of_sign_mul_eq hx h.i0 h.ia h'.i0 h'.ia, eq_of_sign_mul_eq hy h.j0 h.jb h'.j0 h'.jb⟩

/-- On an exact diagonal every step goes along both axes (rule R134). -/
theorem WalkAt.steps_eq_of_diagonal {p : LineParams} {a : Int} (h : WalkAt p x0 y0 a a i j c) :
    i = j := by
  have hi0 := h.i0
  have hia := h.ia
  have hj0 := h.j0
  have hja := h.jb
  have herr : c.err = a * (j - i) := by rw [h.err]; ring
  obtain ⟨hlo, hhi⟩ := h.xMajor le_rfl
  rw [herr] at hlo hhi
  rcases lt_trichotomy i j with hlt | heq | hgt
  · have : a * 1 ≤ a * (j - i) := mul_le_mul_of_nonneg_left (by omega) (by omega)
    omega
  · exact heq
  · have : a * (j - i) ≤ a * -1 := mul_le_mul_of_nonneg_left (by omega) (by omega)
    omega

/-- A degenerate line is, after `k` steps of its major axis, `k` signs away on both axes
(rule R134). -/
theorem Walk.point_of_degenerate (h : Walk x0 y0 x1 y1 i j c)
    (hd : x1 - x0 = 0 ∨ y1 - y0 = 0 ∨ (x1 - x0).natAbs = (y1 - y0).natAbs) {k : Int}
    (hk : majorSteps (x1 - x0).natAbs (y1 - y0).natAbs i j = k) :
    c.point = (x0 + sign (x1 - x0) * k, y0 + sign (y1 - y0) * k) := by
  have hi0 := h.i0
  have hia := h.ia
  have hj0 := h.j0
  have hjb := h.jb
  have hpoint : c.point = (x0 + sign (x1 - x0) * i, y0 + sign (y1 - y0) * j) :=
    Prod.ext h.cx h.cy
  rw [hpoint, ← hk]
  rcases hd with hx | hy | hxy
  · have hj : majorSteps (x1 - x0).natAbs (y1 - y0).natAbs i j = j := by
      simp only [majorSteps]
      split_ifs <;> omega
    rw [hj, hx]
    simp [sign]
  · have hi : majorSteps (x1 - x0).natAbs (y1 - y0).natAbs i j = i := by
      rw [majorSteps, if_pos (by omega)]
    rw [hi, hy]
    simp [sign]
  · rw [Walk, hxy] at h
    rw [majorSteps, hxy, if_pos le_rfl, h.steps_eq_of_diagonal]

/-! ### All points -/

/-- Before the end, the walk lists its point and goes on from one step further (rule R132). -/
theorem Walk.linePointsFrom_cons {n : Nat} (h : Walk x0 y0 x1 y1 i j c)
    (hn : stepsLeft (x1 - x0).natAbs (y1 - y0).natAbs i j = n + 1) :
    ∃ i' j', Walk x0 y0 x1 y1 i' j' (lineStep (lineParams x0 y0 x1 y1) c) ∧
      majorSteps (x1 - x0).natAbs (y1 - y0).natAbs i' j' =
        majorSteps (x1 - x0).natAbs (y1 - y0).natAbs i j + 1 ∧
      stepsLeft (x1 - x0).natAbs (y1 - y0).natAbs i' j' = n ∧
      linePointsFrom (lineParams x0 y0 x1 y1) (n + 1 + 1) c =
        c.point :: linePointsFrom (lineParams x0 y0 x1 y1) (n + 1)
          (lineStep (lineParams x0 y0 x1 y1) c) := by
  have hne : ¬(i = (x1 - x0).natAbs ∧ j = (y1 - y0).natAbs) :=
    fun e => Nat.succ_ne_zero n (hn.symm.trans (h.stepsLeft_end.2 e))
  obtain ⟨i', j', h', hm⟩ := h.step hne
  have hleft := h'.stepsLeft_succ hm h
  exact ⟨i', j', h', hm, by omega, by rw [linePointsFrom, if_neg (mt h.atEnd_iff.1 hne)]; rfl⟩

/-- The `k`-th point listed is the one `k` steps of the major axis further on. -/
theorem Walk.linePointsFrom_getElem? (n : Nat) : ∀ {i j : Int} {c : LinePoint} (k : Nat),
    Walk x0 y0 x1 y1 i j c → stepsLeft (x1 - x0).natAbs (y1 - y0).natAbs i j = n → k ≤ n →
    ∃ i' j' c', Walk x0 y0 x1 y1 i' j' c' ∧
      majorSteps (x1 - x0).natAbs (y1 - y0).natAbs i' j' =
        majorSteps (x1 - x0).natAbs (y1 - y0).natAbs i j + k ∧
      (linePointsFrom (lineParams x0 y0 x1 y1) (n + 1) c)[k]? = some c'.point := by
  induction n with
  | zero =>
    intro i j c k h _ hk
    obtain rfl : k = 0 := by omega
    exact ⟨i, j, c, h, by simp, rfl⟩
  | succ n ih =>
    intro i j c k h hn hk
    obtain ⟨i', j', h', hm, hn', hcons⟩ := h.linePointsFrom_cons hn
    rw [hcons]
    cases k with
    | zero => exact ⟨i, j, c, h, by simp, rfl⟩
    | succ k =>
      obtain ⟨i₂, j₂, c₂, h₂, hm₂, hget⟩ := ih k h' hn' (by omega)
      exact ⟨i₂, j₂, c₂, h₂, by omega, hget⟩

/-- The walk has a point for every step of its major axis, and one more (rule R133). -/
theorem length_linePoints (x0 y0 x1 y1 : Int) :
    (linePoints x0 y0 x1 y1).length = max (x1 - x0).natAbs (y1 - y0).natAbs + 1 := by
  obtain ⟨-, -, hlen, -⟩ := linePointsFrom_spec _ 0 0 _ (walkAt_start x0 y0 x1 y1) rfl
  rw [← lineFuel_eq, linePoints, stepsLeft_start, hlen]

theorem head?_linePoints (x0 y0 x1 y1 : Int) : (linePoints x0 y0 x1 y1).head? = some (x0, y0) := by
  obtain ⟨hhead, -⟩ := linePointsFrom_spec _ 0 0 _ (walkAt_start x0 y0 x1 y1) rfl
  rw [linePoints, stepsLeft_start, hhead]
  rfl

theorem getLast?_linePoints (x0 y0 x1 y1 : Int) :
    (linePoints x0 y0 x1 y1).getLast? = some (x1, y1) := by
  obtain ⟨-, hlast, -⟩ := linePointsFrom_spec _ 0 0 _ (walkAt_start x0 y0 x1 y1) rfl
  rw [linePoints, stepsLeft_start, hlast]

/-- The walk does not leave the rectangle that its endpoints span (rule R133). -/
theorem linePoints_in_rectangle {q : Int × Int} (hq : q ∈ linePoints x0 y0 x1 y1) :
    min x0 x1 ≤ q.1 ∧ q.1 ≤ max x0 x1 ∧ min y0 y1 ≤ q.2 ∧ q.2 ≤ max y0 y1 := by
  obtain ⟨-, -, -, hall⟩ := linePointsFrom_spec _ 0 0 _ (walkAt_start x0 y0 x1 y1) rfl
  rw [linePoints, stepsLeft_start] at hq
  obtain ⟨i, j, c, h, rfl, -⟩ := hall q hq
  exact h.inRectangle

/-- The `k`-th point of a line is the one after `k` steps of the major axis. -/
theorem linePoints_getElem? {k : Nat} (hk : k < (linePoints x0 y0 x1 y1).length) :
    ∃ i j c, Walk x0 y0 x1 y1 i j c ∧ majorSteps (x1 - x0).natAbs (y1 - y0).natAbs i j = k ∧
      (linePoints x0 y0 x1 y1)[k]? = some c.point := by
  have hlen := length_linePoints x0 y0 x1 y1
  rw [← lineFuel_eq, stepsLeft_start] at hlen
  obtain ⟨i, j, c, h, hm, hget⟩ :=
    Walk.linePointsFrom_getElem? _ k (walkAt_start x0 y0 x1 y1) rfl (by omega)
  exact ⟨i, j, c, h, by rw [hm]; simp [majorSteps], by rw [linePoints, stepsLeft_start, hget]⟩

/-- No point of a walk comes twice: the number of steps of the major axis tells them apart
(rule R133). -/
theorem nodup_linePoints (x0 y0 x1 y1 : Int) : (linePoints x0 y0 x1 y1).Nodup := by
  refine List.nodup_iff_getElem?_ne_getElem?.2 fun k k' hlt hk' heq => ?_
  obtain ⟨i, j, c, h, hm, hget⟩ := linePoints_getElem? (hlt.trans hk')
  obtain ⟨i', j', c', h', hm', hget'⟩ := linePoints_getElem? hk'
  rw [hget, hget'] at heq
  obtain ⟨rfl, rfl⟩ := h.steps_unique h' (Option.some.inj heq)
  omega

/-- The walk of a degenerate line in closed form (rule R134). -/
theorem linePoints_of_degenerate
    (hd : x1 - x0 = 0 ∨ y1 - y0 = 0 ∨ (x1 - x0).natAbs = (y1 - y0).natAbs) :
    linePoints x0 y0 x1 y1 =
      (List.range (max (x1 - x0).natAbs (y1 - y0).natAbs + 1)).map
        fun (k : Nat) => (x0 + sign (x1 - x0) * k, y0 + sign (y1 - y0) * k) := by
  refine List.ext_getElem (by simp [length_linePoints]) fun k hk _ => ?_
  obtain ⟨i, j, c, h, hm, hget⟩ := linePoints_getElem? hk
  rw [List.getElem?_eq_getElem hk] at hget
  rw [Option.some.inj hget, h.point_of_degenerate hd hm]
  simp

/-! ### The instruction -/

/-- DRAWLINE tests its flag operand first, whatever the points (rules R130 and R197). -/
theorem exec_drawLine_illegal {on : Byte} (h0 : on ≠ 0x00) (h1 : on ≠ 0x01) (s : State)
    (x0 y0 x1 y1 : Byte) :
    exec (.drawLine x0 y0 x1 y1 on) s = .next (s.faulted .illegalOperand 0x04 on) := by
  simp [exec, execDrawLine, flagLegal_eq_false h0 h1, raise]

/-- `before` are the points of the walk that DRAWLINE plots, all inside the display, and `m` is the
framebuffer with exactly them set to `on`. -/
structure Plotted (s : State) (before : List (Int × Int)) (on : Bool) (m : Memory) : Prop where
  inside : ∀ q ∈ before, inRange s.cfg q.1 q.2 = true
  wf : m.wf s.cfg.fbLen = true
  pixel : ∀ x y : Nat, x < width → y < s.cfg.height → (s.setFb m).pixel? x y =
    if ((x : Int), (y : Int)) ∈ before then some on else s.pixel? x y

/-- DRAWLINE with a legal flag plots the whole walk and ends, or plots it up to its first point
outside the display and faults there (rules R132 and R136). -/
theorem exec_drawLine_legal {s : State} {on : Byte} (hf : s.FbOk) (hon : on = 0x00 ∨ on = 0x01)
    (x0 y0 x1 y1 : Byte) :
    (∃ m, Plotted s (linePoints x0.toNat y0.toNat x1.toNat y1.toNat) (on == 0x01) m ∧
      exec (.drawLine x0 y0 x1 y1 on) s = .next (s.setFb m).endOp) ∨
    ∃ before q after m, linePoints x0.toNat y0.toNat x1.toNat y1.toNat = before ++ q :: after ∧
      Plotted s before (on == 0x01) m ∧ inRange s.cfg q.1 q.2 = false ∧
      exec (.drawLine x0 y0 x1 y1 on) s = .next
        ((s.setFb m).faulted .pixelRange (BitVec.ofInt 8 q.1) (BitVec.ofInt 8 q.2)) := by
  rw [exec, execDrawLine, if_pos ((flagLegal_iff on).2 hon), flagBit_of_legal hon, drawLine,
    linePoints, stepsLeft_start]
  obtain ⟨before, rest, m, hsplit, hin, hwf, hpix, ⟨rfl, hgo⟩ | ⟨q, after, rfl, hq, hstop⟩⟩ :=
    lineLoop_spec (on == 0x01) _ 0 0 _ s (walkAt_start x0.toNat y0.toNat x1.toNat y1.toNat) rfl hf
  · rw [List.append_nil] at hsplit
    exact .inl ⟨m, hsplit ▸ ⟨hin, hwf, hpix⟩, by rw [hgo]; rfl⟩
  · exact .inr ⟨before, q, after, m, hsplit, ⟨hin, hwf, hpix⟩, hq, by rw [hstop]; rfl⟩

/-- A coordinate that a byte can hold is what fault entry reports (rule R196). -/
theorem toNat_ofInt_byte {v : Int} (h0 : 0 ≤ v) (h : v < 256) :
    ((BitVec.ofInt 8 v).toNat : Int) = v := by
  rw [BitVec.toNat_ofInt]
  omega

end Sys2Proof.Machine
end

section
/-! PROOF. The statements of spec/42_line.md: DRAWLINE and its walk. -/

open Sys2Proof Sys2Proof.Machine

/-- Settles O14: a walk between two display points stays in their rectangle, so it meets no point at
which it could fault. -/
theorem drawLinePlotsExactlyTheWalk : Obligations.DrawLinePlotsExactlyTheWalk := by
  intro s x0 y0 x1 y1 on hf hon hx0 hy0 hx1 hy1
  obtain ⟨m, hm, he⟩ | ⟨before, q, after, -, hsplit, -, hq, -⟩ :=
    exec_drawLine_legal hf hon x0 y0 x1 y1
  · exact ⟨m, he, hm.wf, hm.pixel⟩
  · have hrect := linePoints_in_rectangle (hsplit ▸ List.mem_append_cons_self : q ∈ linePoints ..)
    have hin : inRange s.cfg q.1 q.2 = true := by
      rw [inRange_iff]
      omega
    exact absurd (hq.symm.trans hin) Bool.false_ne_true

/-- Settles O15, from the lemmas on the points of the walk. -/
theorem lineWalkShape : Obligations.LineWalkShape := by
  rintro x0 y0 x1 y1 _ rfl
  exact ⟨head?_linePoints .., getLast?_linePoints .., length_linePoints .., nodup_linePoints ..,
    fun _ => linePoints_in_rectangle⟩

/-- Settles O16: the endpoint outside the display is on the walk, so the walk cannot end normally;
the point it faults at lies between byte coordinates, so the fault reports it exactly. -/
theorem drawLineFaultsAtFirstPointOutside : Obligations.DrawLineFaultsAtFirstPointOutside := by
  intro s x0 y0 x1 y1 on hf hon hout
  obtain ⟨m, hm, -⟩ | ⟨before, q, after, m, hsplit, hm, hq, he⟩ :=
    exec_drawLine_legal hf hon x0 y0 x1 y1
  · have hfirst := hm.inside _ (List.mem_of_head? (head?_linePoints ..))
    have hlast := hm.inside _ (List.mem_of_getLast? (getLast?_linePoints ..))
    rw [inRange_nat] at hfirst hlast
    omega
  · have hrect := linePoints_in_rectangle (hsplit ▸ List.mem_append_cons_self : q ∈ linePoints ..)
    have hx0 := x0.isLt
    have hy0 := y0.isLt
    have hx1 := x1.isLt
    have hy1 := y1.isLt
    have hcx := toNat_ofInt_byte (v := q.1) (by omega) (by omega)
    have hcy := toNat_ofInt_byte (v := q.2) (by omega) (by omega)
    refine ⟨before, after, _, _, m, by rw [hcx, hcy]; exact hsplit,
      fun p hp => (inRange_iff ..).1 (hm.inside p hp), ?_, hm.wf, he, hm.pixel⟩
    rw [← hcx, ← hcy, ← Bool.not_eq_true, inRange_nat] at hq
    omega

/-- Settles O17, by the flag test that stands before the set-up of the line. -/
theorem drawLineRejectsReservedFlagBits : Obligations.DrawLineRejectsReservedFlagBits :=
  fun s x0 y0 x1 y1 _ h0 h1 => exec_drawLine_illegal h0 h1 s x0 y0 x1 y1

/-- Settles O18: the `k`-th point of the walk, for each kind of degenerate line. -/
theorem degenerateLines : Obligations.DegenerateLines := by
  rintro x0 y0 x1 y1 _ _ rfl rfl hd
  exact linePoints_of_degenerate hd

/-- Settles O19, by running both walks. -/
theorem directionOfDrawingMatters : Obligations.DirectionOfDrawingMatters :=
  ⟨rfl, rfl⟩
end

section
/-! SUPPORT. The glyph index of each range of codes (rules R142 and R143), and the page snap of the
character loop (rule R147). -/

namespace Sys2Proof.Machine

open Config

/-! ### Characters -/

theorem charToGlyphIndex_of_not_lower {ch : Byte} (h : ¬(0x61 ≤ ch.toNat ∧ ch.toNat ≤ 0x7A)) :
    charToGlyphIndex ch = glyphOfUpper ch := by
  rw [charToGlyphIndex, upper, if_neg h]

/-- A lower case letter has the glyph of its upper case letter (rule R143). -/
theorem charToGlyphIndex_of_lower {ch : Byte} (h : 0x61 ≤ ch.toNat ∧ ch.toNat ≤ 0x7A) :
    charToGlyphIndex ch = glyphOfUpper (ch - 0x20) := by
  rw [charToGlyphIndex, upper, if_pos h]

theorem glyphOfUpper_letter {u : Byte} (h : 0x41 ≤ u.toNat ∧ u.toNat ≤ 0x5A) :
    (glyphOfUpper u).val = u.toNat - 0x41 + 1 := by
  rw [glyphOfUpper, dif_pos h]

theorem glyphOfUpper_digit {u : Byte} (h : 0x30 ≤ u.toNat ∧ u.toNat ≤ 0x39) :
    (glyphOfUpper u).val = u.toNat - 0x30 + 27 := by
  rw [glyphOfUpper, dif_neg (by omega), dif_pos h]

/-- Every code without a glyph of its own is blank (rule R142). -/
theorem glyphOfUpper_other {u : Byte} (hletter : ¬(0x41 ≤ u.toNat ∧ u.toNat ≤ 0x5A))
    (hdigit : ¬(0x30 ≤ u.toNat ∧ u.toNat ≤ 0x39)) (heq : u ≠ 0x3D) (hcomma : u ≠ 0x2C)
    (hpercent : u ≠ 0x25) (hdot : u ≠ 0x2E) : glyphOfUpper u = 0 := by
  rw [glyphOfUpper, dif_neg hletter, dif_neg hdigit, if_neg heq, if_neg hcomma, if_neg hpercent,
    if_neg hdot]

/-! ### The page snap -/

/-- `WriteChar` at a row in the drawable area goes on, with another framebuffer at most
(rule R144). -/
theorem writeChar_go {s : State} {y : Nat} (hy : y ≤ s.cfg.height - 8) (x : Nat) (ch : Byte) :
    ∃ m, writeChar x y ch s = .go (s.setFb m) := by
  by_cases hx : x ≤ width - 8
  · obtain ⟨m, hm, -⟩ := blit_spec (charToGlyphIndex ch) (flatIndex (pageOf y) x) glyphColumns s
      (char_lt s.cfg x y hx hy)
    exact ⟨m, by simp [writeChar, (textMiss_eq_false ..).2 ⟨hx, hy⟩, hm]⟩
  · exact ⟨s.fb, if_pos (by simp [textMiss, Nat.lt_of_not_le hx])⟩

/-- The guard sees nothing of a row but that it is in the drawable area. -/
theorem textMiss_congr {cfg : Build} {y y' : Nat} (hy : y ≤ cfg.height - 8)
    (hy' : y' ≤ cfg.height - 8) (x : Nat) : textMiss cfg x y = textMiss cfg x y' := by
  rw [textMiss, textMiss, decide_eq_false (Nat.not_lt.2 hy), decide_eq_false (Nat.not_lt.2 hy')]

/-- The character loop sees only the page of a row in the drawable area (rule R147). -/
theorem writeChars_congr_page {y y' : Nat} (hp : pageOf y = pageOf y') (str : List Byte) {s : State}
    (hy : y ≤ s.cfg.height - 8) (hy' : y' ≤ s.cfg.height - 8) (x : Nat) :
    writeChars y str x s = writeChars y' str x s := by
  induction str generalizing x s with
  | nil => rfl
  | cons ch str ih =>
    have hchar : writeChar x y ch s = writeChar x y' ch s := by
      rw [writeChar, writeChar, textMiss_congr hy hy', hp]
    obtain ⟨m, hm⟩ := writeChar_go hy' x ch
    rw [writeChars, writeChars, hchar, hm]
    exact ih (s := s.setFb m) hy hy' (x + 8)

/-! ### The instruction -/

/-- WRITESTRING that starts off the drawable area does nothing (rule R145). -/
theorem exec_writeString_miss {s : State} {x y : Byte} (h : textMiss s.cfg x.toNat y.toNat = true)
    (str : List Byte) : exec (.writeString x y str) s = .next s.endOp :=
  if_pos h

/-- WRITESTRING that starts inside the drawable area runs the character loop (rule R145). -/
theorem exec_writeString_hit {s : State} {x y : Byte} (h : textMiss s.cfg x.toNat y.toNat = false)
    (str : List Byte) :
    exec (.writeString x y str) s = (writeChars y.toNat str x.toNat s).finish :=
  if_neg (by simp [coord, h])

end Sys2Proof.Machine
end

section
/-! PROOF. The statements of spec/43_text.md: WRITESTRING and the character mapping. -/

open Sys2Proof Sys2Proof.Machine Sys2Proof.Config

/-- Settles O21: the encoder puts the length in one byte; the character loop draws every character
that fits and keeps the rest; the guard of the start position drops the whole string. -/
theorem writeStringBlitsGlyphs : Obligations.WriteStringBlitsGlyphs := by
  intro s x y str
  refine ⟨fun hlen => ?_, fun hx hy => ?_, fun hmiss => ?_⟩
  · obtain ⟨-, -, -, -, hformat, -⟩ := packetFormats
    obtain ⟨len, hbyte, hbytes, -⟩ := hformat x y str hlen
    exact ⟨len, hbyte, hbytes⟩
  · obtain ⟨m, hm, hglyph, hkept, -⟩ := writeChars_spec y.toNat str x.toNat s hy
    refine ⟨m, ?_, hglyph, hkept⟩
    rw [exec_writeString_hit ((textMiss_eq_false ..).2 ⟨hx, hy⟩), hm]
    rfl
  · exact exec_writeString_miss (by simpa [textMiss] using hmiss) str

/-- Settles O22: the top row of a page is not below the row it stands for, so both rows are in the
drawable area, where the guard and the loop see the same page. -/
theorem textSnapsToThePage : Obligations.TextSnapsToThePage := by
  intro s x y y' str hy htop
  have hy' : y'.toNat ≤ s.cfg.height - 8 := by omega
  have hpage : pageOf y.toNat = pageOf y'.toNat := by
    simp only [pageOf]
    omega
  cases hmiss : textMiss s.cfg x.toNat y.toNat with
  | true =>
    rw [exec_writeString_miss hmiss, exec_writeString_miss (textMiss_congr hy hy' _ ▸ hmiss)]
  | false =>
    rw [exec_writeString_hit hmiss, exec_writeString_hit (textMiss_congr hy hy' _ ▸ hmiss),
      writeChars_congr_page hpage str hy hy']

/-- Settles O20, range by range; a lower case letter first loses `0x20`. -/
theorem characterMapping : Obligations.CharacterMapping := by
  intro ch
  refine ⟨fun h => ?_, fun h => ?_, fun h => ?_, fun h => h ▸ rfl, fun h => h ▸ rfl,
    fun h => h ▸ rfl, fun h => h ▸ rfl, fun hletter hlower hdigit heq hcomma hpercent hdot => ?_⟩
  · rw [charToGlyphIndex_of_not_lower (by omega), glyphOfUpper_letter h]
  · have hup : (ch - 0x20).toNat = ch.toNat - 0x20 := by bv_omega
    rw [charToGlyphIndex_of_lower h, glyphOfUpper_letter (by omega), hup]
    omega
  · rw [charToGlyphIndex_of_not_lower (by omega), glyphOfUpper_digit h]
  · rw [charToGlyphIndex_of_not_lower hlower,
      glyphOfUpper_other hletter hdigit heq hcomma hpercent hdot]
end

section
/-! SUPPORT. Noninterference (rule R170): two states that differ in nothing but the answers of the bus
agent and `TERR` stay so, through every part of a step. -/

namespace Sys2Proof.Machine

/-- `s` with other answers ready, and another `TERR`. -/
def State.withAnswers (s : State) (oks : List Bool) (terr : Bool) : State :=
  { s with busIn := oks, terr := terr }

/-- What differs at most in the answers is the first state with as many other ones. -/
theorem State.SameButAnswers.exists_eq {s t : State} (h : s.SameButAnswers t) :
    ∃ oks terr, oks.length = s.busIn.length ∧ t = s.withAnswers oks terr := by
  refine ⟨t.busIn, t.terr, h.1.symm, ?_⟩
  have hset := congrArg (State.withAnswers · t.busIn t.terr) h.2
  exact hset.symm

variable {s t : State}

/-! What both states have. -/

theorem State.SameButAnswers.cfg (h : s.SameButAnswers t) : t.cfg = s.cfg :=
  (congrArg State.cfg h.2).symm
theorem State.SameButAnswers.fb (h : s.SameButAnswers t) : t.fb = s.fb :=
  (congrArg State.fb h.2).symm
theorem State.SameButAnswers.win (h : s.SameButAnswers t) : t.win = s.win :=
  (congrArg State.win h.2).symm
theorem State.SameButAnswers.dcState (h : s.SameButAnswers t) : t.dcState = s.dcState :=
  (congrArg State.dcState h.2).symm
theorem State.SameButAnswers.halt (h : s.SameButAnswers t) : t.halt = s.halt :=
  (congrArg State.halt h.2).symm
theorem State.SameButAnswers.cur (h : s.SameButAnswers t) : t.cur = s.cur :=
  (congrArg State.cur h.2).symm
theorem State.SameButAnswers.seqIdx (h : s.SameButAnswers t) : t.seqIdx = s.seqIdx :=
  (congrArg State.seqIdx h.2).symm
theorem State.SameButAnswers.waiting (h : s.SameButAnswers t) : t.waiting = s.waiting :=
  (congrArg State.waiting h.2).symm
theorem State.SameButAnswers.rst (h : s.SameButAnswers t) : t.rst = s.rst :=
  (congrArg State.rst h.2).symm
theorem State.SameButAnswers.cmdIn (h : s.SameButAnswers t) : t.cmdIn = s.cmdIn :=
  (congrArg State.cmdIn h.2).symm
theorem State.SameButAnswers.pkt (h : s.SameButAnswers t) : t.pkt = s.pkt :=
  (congrArg State.pkt h.2).symm

theorem State.SameButAnswers.portBytes (h : s.SameButAnswers t) : t.portBytes = s.portBytes :=
  congrArg₂ _ h.pkt h.cmdIn

/-! ### The updates of the state -/

/-- An update that reads neither the answers nor `TERR`, and leaves both. -/
theorem State.SameButAnswers.map (h : s.SameButAnswers t) (f : State → State)
    (hf : ∀ (u : State) (oks : List Bool) (terr : Bool),
      f (u.withAnswers oks terr) = (f u).withAnswers oks terr)
    (hbus : ∀ u : State, (f u).busIn = u.busIn) : (f s).SameButAnswers (f t) := by
  obtain ⟨oks, terr, hlen, rfl⟩ := h.exists_eq
  exact ⟨by simp only [hbus, hlen, State.withAnswers], by rw [hf]; rfl⟩

theorem State.SameButAnswers.setFb (h : s.SameButAnswers t) (m : Memory) :
    (s.setFb m).SameButAnswers (t.setFb m) :=
  h.map (State.setFb · m) (fun _ _ _ => rfl) fun _ => rfl

theorem State.SameButAnswers.setWin (h : s.SameButAnswers t) (w : Window) :
    (s.setWin w).SameButAnswers (t.setWin w) :=
  h.map (State.setWin · w) (fun _ _ _ => rfl) fun _ => rfl

theorem State.SameButAnswers.setReady (h : s.SameButAnswers t) :
    s.setReady.SameButAnswers t.setReady :=
  h.map State.setReady (fun _ _ _ => rfl) fun _ => rfl

theorem State.SameButAnswers.endOp (h : s.SameButAnswers t) : s.endOp.SameButAnswers t.endOp :=
  h.map State.endOp (fun _ _ _ => rfl) fun _ => rfl

theorem State.SameButAnswers.faulted (h : s.SameButAnswers t) (c : Cause) (a b : Byte) :
    (s.faulted c a b).SameButAnswers (t.faulted c a b) :=
  h.map (State.faulted · c a b) (fun _ _ _ => rfl) fun _ => rfl

theorem State.SameButAnswers.seqStart (h : s.SameButAnswers t) :
    s.seqStart.SameButAnswers t.seqStart :=
  h.map State.seqStart (fun _ _ _ => rfl) fun _ => rfl

theorem State.SameButAnswers.latched (h : s.SameButAnswers t) (i : Instr) (rest : List Byte) :
    (s.latched i rest).SameButAnswers (t.latched i rest) :=
  h.map (State.latched · i rest) (fun _ _ _ => rfl) fun _ => rfl

theorem State.SameButAnswers.dropped (h : s.SameButAnswers t) (rest : List Byte) :
    (s.dropped rest).SameButAnswers (t.dropped rest) :=
  h.map (State.dropped · rest) (fun _ _ _ => rfl) fun _ => rfl

theorem State.SameButAnswers.takeAll (h : s.SameButAnswers t) :
    s.takeAll.SameButAnswers t.takeAll := by
  simp only [State.takeAll, h.cmdIn]
  split
  · exact h
  · obtain ⟨oks, terr, hlen, rfl⟩ := h.exists_eq
    exact ⟨hlen.symm, rfl⟩

/-- Reset clears `TERR`, and leaves the answers that are ready to the bus agent (log 9). -/
theorem State.SameButAnswers.resetNow (h : s.SameButAnswers t) :
    s.resetNow.SameButAnswers t.resetNow := by
  obtain ⟨oks, terr, hlen, rfl⟩ := h.exists_eq
  exact ⟨hlen.symm, rfl⟩

theorem State.SameButAnswers.afterLast (h : s.SameButAnswers t) (i : Instr) :
    (afterLast i s).SameButAnswers (afterLast i t) := by
  cases i with
  | init => exact h.setReady
  | _ => exact h

/-- Sending the same transactions uses up as many answers (rule R170). -/
theorem State.SameButAnswers.sent (h : s.SameButAnswers t) (ts : List Transaction) :
    (s.sent ts).SameButAnswers (t.sent ts) := by
  obtain ⟨oks, terr, hlen, rfl⟩ := h.exists_eq
  exact ⟨by simp [State.withAnswers, hlen], rfl⟩

/-- Both wait for the answer to the same transaction (rule R169). -/
theorem State.SameButAnswers.stalled (h : s.SameButAnswers t) (i : Instr)
    (ts : List Transaction) : (s.stalled i ts).SameButAnswers (t.stalled i ts) := by
  obtain ⟨oks, terr, hlen, rfl⟩ := h.exists_eq
  exact ⟨rfl, by simp only [State.stalled, State.withAnswers, hlen]⟩

/-- The next answer may be any. -/
theorem State.SameButAnswers.answered (h : s.SameButAnswers t) (ok ok' : Bool)
    {oks oks' : List Bool} (hlen : oks.length = oks'.length) :
    (s.answered ok oks).SameButAnswers (t.answered ok' oks') := by
  obtain ⟨_, _, -, rfl⟩ := h.exists_eq
  exact ⟨hlen, rfl⟩

/-! ### The parts of an operation -/

/-- The cases of `SameOutcomeButAnswers`, as an inductive, so that no proof evaluates an outcome to see
that both are of one kind. -/
inductive SameOutcome :
    Host.Outcome State Fault Refusal → Host.Outcome State Fault Refusal → Prop where
  | next {s t : State} (h : s.SameButAnswers t) : SameOutcome (.next s) (.next t)
  | fault (r : Fault) : SameOutcome (.fault r) (.fault r)
  | refused (r : Refusal) : SameOutcome (.refused r) (.refused r)

theorem SameOutcome.butAnswers {o p : Host.Outcome State Fault Refusal} (h : SameOutcome o p) :
    SameOutcomeButAnswers o p := by
  cases h with
  | next h => exact h
  | fault | refused => rfl

/-- Two flows that differ at most in what the bus agent answers. -/
inductive SameFlow : Flow → Flow → Prop where
  | go {s t : State} (h : s.SameButAnswers t) : SameFlow (.go s) (.go t)
  | stop {o p : Host.Outcome State Fault Refusal} (h : SameOutcome o p) :
    SameFlow (.stop o) (.stop p)

theorem SameFlow.andThen {f g : Flow} (h : SameFlow f g) {k : State → Flow}
    (hk : ∀ {u v : State}, u.SameButAnswers v → SameFlow (k u) (k v)) :
    SameFlow (f.andThen k) (g.andThen k) := by
  cases h with
  | go h => exact hk h
  | stop h => exact .stop h

theorem SameFlow.finish {f g : Flow} (h : SameFlow f g) :
    SameOutcome f.finish g.finish := by
  cases h with
  | go h => exact .next h.endOp
  | stop h => exact h

theorem raise_same (h : s.SameButAnswers t) (c : Cause) (a b : Byte) :
    SameOutcome (raise c a b s) (raise c a b t) := .next (h.faulted c a b)

theorem fbWrite_same (h : s.SameButAnswers t) (a : Nat) (b : Byte) :
    SameFlow (fbWrite a b s) (fbWrite a b t) := by
  simp only [fbWrite, h.cfg, h.fb]
  split
  · exact .go (h.setFb _)
  · exact .stop (.fault _)

theorem plot_same (h : s.SameButAnswers t) (x y : Nat) (on : Bool) :
    SameFlow (plot x y on s) (plot x y on t) := by
  simp only [plot, State.fbRead, h.fb]
  split
  · exact fbWrite_same h _ _
  · exact .stop (.fault _)

theorem setPixel_same (h : s.SameButAnswers t) (x y : Int) (on : Bool) :
    SameFlow (setPixel x y on s) (setPixel x y on t) := by
  simp only [setPixel, h.cfg]
  split
  · exact plot_same h _ _ _
  · exact .stop (raise_same h _ _ _)

/-- The loop of rule R132 as a sequence: plot, then the end test. -/
theorem lineLoop_succ (p : LineParams) (on : Bool) (n : Nat) (c : LinePoint) (s : State) :
    lineLoop p on (n + 1) c s = (setPixel c.cx c.cy on s).andThen fun u =>
      if p.atEnd c then .go u else lineLoop p on n (lineStep p c) u := by
  rw [lineLoop]
  cases setPixel c.cx c.cy on s <;> rfl

theorem lineLoop_same (p : LineParams) (on : Bool) (n : Nat) (c : LinePoint)
    (h : s.SameButAnswers t) : SameFlow (lineLoop p on n c s) (lineLoop p on n c t) := by
  induction n generalizing c s t with
  | zero => exact .stop (.fault _)
  | succ n ih =>
    rw [lineLoop_succ, lineLoop_succ]
    refine (setPixel_same h _ _ _).andThen fun hu => ?_
    split
    · exact .go hu
    · exact ih _ hu

theorem drawLine_same (x0 y0 x1 y1 : Int) (on : Bool) (h : s.SameButAnswers t) :
    SameFlow (drawLine x0 y0 x1 y1 on s) (drawLine x0 y0 x1 y1 on t) :=
  lineLoop_same _ on _ _ h

theorem blit_same (g : Fin 41) (base : Nat) (is : List (Fin 8)) (h : s.SameButAnswers t) :
    SameFlow (blit g base is s) (blit g base is t) := by
  induction is generalizing s t with
  | nil => exact .go h
  | cons i is ih =>
    rw [blit, blit, h.cfg]
    exact (fbWrite_same h _ _).andThen ih

theorem writeChars_same (y : Nat) (str : List Byte) (x : Nat) (h : s.SameButAnswers t) :
    SameFlow (writeChars y str x s) (writeChars y str x t) := by
  induction str generalizing x s t with
  | nil => exact .go h
  | cons ch str ih =>
    rw [writeChars, writeChars]
    refine SameFlow.andThen ?_ (ih _)
    rw [writeChar, writeChar, h.cfg]
    split
    · exact .go h
    · exact blit_same _ _ _ h

/-! ### Sending, instructions and steps -/

/-- What is sent is the same, and the number of answers decides whether all of it is (rule R170). -/
theorem sendAll_same (i : Instr) (ts : List Transaction) (h : s.SameButAnswers t) :
    SameOutcome (sendAll i (afterLast i) ts s) (sendAll i (afterLast i) ts t) := by
  have hlen := h.1
  rcases sendAll_cases i ts s with ⟨hs, hsend⟩ | ⟨hs, hsend⟩ <;>
    rcases sendAll_cases i ts t with ⟨ht, hsend'⟩ | ⟨ht, hsend'⟩ <;> rw [hsend, hsend']
  · exact .next ((h.sent ts).afterLast i).endOp
  · omega
  · omega
  · exact .next (h.stalled i ts)

theorem sendResume_same (i : Instr) (h : s.SameButAnswers t) :
    SameOutcome (sendResume i s) (sendResume i t) := by
  rw [sendResume, sendResume, transactions_congr i t s h.cfg h.win h.fb, h.seqIdx]
  split
  · exact .fault _
  · exact sendAll_same i _ h

theorem sendStart_same (i : Instr) (h : s.SameButAnswers t) :
    SameOutcome (sendStart i s) (sendStart i t) := by
  rw [sendStart_eq_sendResume, sendStart_eq_sendResume]
  exact sendResume_same i h.seqStart

theorem exec_same (i : Instr) (h : s.SameButAnswers t) :
    SameOutcome (exec i s) (exec i t) := by
  cases i with
  | init =>
    rw [exec, exec, execInit, execInit, h.dcState]
    split
    exacts [raise_same h _ _ _, sendStart_same _ h]
  | clear =>
    rw [exec, exec, execClear, execClear, h.cfg]
    exact .next (h.setFb _).endOp
  | setPixel x y on =>
    rw [exec, exec, execSetPixel, execSetPixel]
    split
    exacts [(setPixel_same h _ _ _).finish, raise_same h _ _ _]
  | drawLine x0 y0 x1 y1 on =>
    rw [exec, exec, execDrawLine, execDrawLine]
    split
    exacts [(drawLine_same _ _ _ _ _ h).finish, raise_same h _ _ _]
  | writeString x y str =>
    rw [exec, exec, execWriteString, execWriteString, h.cfg]
    split
    exacts [.next h.endOp, (writeChars_same _ _ _ h).finish]
  | setWindow sc ec sp ep =>
    rw [exec, exec, execSetWindow, execSetWindow, h.cfg]
    split
    exacts [.next (h.setWin _).endOp, raise_same h _ _ _]
  | render =>
    rw [exec, exec, execRender, execRender, h.dcState]
    split
    exacts [raise_same h _ _ _, sendStart_same _ h]
  | setScroll en =>
    rw [exec, exec, execSetScroll, execSetScroll]
    split
    exacts [sendStart_same _ h, raise_same h _ _ _]
  | _ =>
    rw [exec_eq_sendStart rfl, exec_eq_sendStart rfl]
    exact sendStart_same _ h

theorem resume_same (i : Instr) (h : s.SameButAnswers t) :
    SameOutcome (resume i s) (resume i t) := by
  obtain ⟨oks, terr, hlen, rfl⟩ := h.exists_eq
  simp only [resume]
  cases hs : s.busIn with
  | nil =>
    obtain rfl : oks = [] := by simpa [hs] using hlen
    exact .fault _
  | cons ok rest =>
    cases oks with
    | nil => simp [hs] at hlen
    | cons ok' rest' => exact sendResume_same i (h.answered ok ok' (by simpa [hs] using hlen.symm))

theorem proceed_same (i : Instr) (h : s.SameButAnswers t) :
    SameOutcome (proceed i s) (proceed i t) := by
  rw [proceed, proceed, h.waiting]
  split
  exacts [resume_same i h, exec_same i h]

theorem fetch_same (h : s.SameButAnswers t) : SameOutcome (fetch s) (fetch t) := by
  rw [fetch, fetch, h.portBytes]
  split
  · exact exec_same _ (h.latched _ _)
  · exact .next h.takeAll
  · exact raise_same (h.dropped _) _ _ _

theorem stepLive_same (h : s.SameButAnswers t) :
    SameOutcome (stepLive s) (stepLive t) := by
  rw [stepLive, stepLive, h.cur, h.halt]
  split
  · exact proceed_same _ h
  · split
    exacts [.fault _, fetch_same h]

theorem step_same (h : s.SameButAnswers t) : SameOutcome (step s) (step t) := by
  rw [step, step, stepOnce, stepOnce, h.cfg, h.rst]
  split
  · split
    exacts [.next h.resetNow, stepLive_same h]
  · exact .refused _

end Sys2Proof.Machine
end

section
/-! SUPPORT. When an instruction sends, and what it has sent once it ends or when it is resumed. -/

namespace Sys2Proof.Machine

/-- The checks of an operation that come before its first transaction are passed (rules R164 to R166); a
display command and a framing have none. -/
structure State.MaySend (s : State) (i : Instr) : Prop where
  sends : Sends i
  init : i = .init → s.dcState = .uninitialized
  render : i = .render → s.dcState = .ready
  scroll : ∀ en, i = .setScroll en → flagLegal en = true

variable {s t : State} {i : Instr} {ts : List Transaction}

theorem State.MaySend.exec_eq (h : s.MaySend i) : exec i s = sendStart i s := by
  rcases h.sends with rfl | rfl | ⟨en, rfl⟩ | hi
  · simp only [exec, execInit, h.init rfl]
  · simp only [exec, execRender, h.render rfl]
  · simp only [exec, execSetScroll, h.scroll en rfl, if_true]
  · exact exec_eq_sendStart hi s

/-- The checks read `DC_STATE` alone. -/
theorem State.MaySend.of_dcState (h : s.MaySend i) (hd : t.dcState = s.dcState) : t.MaySend i where
  sends := h.sends
  init hi := hd.trans (h.init hi)
  render hi := hd.trans (h.render hi)
  scroll := h.scroll

/-- An instruction with a transaction to send is one of those that send. -/
theorem sends_of_transactions (ht : transactions s i = some ts) (hne : ts ≠ []) : Sends i := by
  cases i with
  | init => exact .inl rfl
  | render => exact .inr (.inl rfl)
  | setScroll en => exact .inr (.inr (.inl ⟨en, rfl⟩))
  | clear | setPixel | drawLine | writeString | setWindow =>
    exact absurd (Option.some.inj ht).symm hne
  | _ => exact .inr (.inr (.inr rfl))

/-- An illegal flag operand of SETSCROLL is a fault (rule R166). -/
theorem exec_setScroll_illegal {en : Byte} (h : flagLegal en = false) (s : State) :
    exec (.setScroll en) s = .next (s.faulted .illegalOperand 0x08 en) := by
  simp only [exec, execSetScroll, h, Bool.false_eq_true, if_false, raise]

/-- An operation that is left waiting has passed its checks (rule R169). -/
theorem maySend_of_waiting (h : exec i s = .next t) (hw : t.waiting = true) : s.MaySend i := by
  cases exec_effect h with
  | fault _ _ _ _ ht => subst ht; cases hw
  | draw _ _ ht => subst ht; cases hw
  | window _ _ _ _ _ _ ht => subst ht; cases hw
  | send hi h0 h1 _ =>
    refine ⟨hi, h0, h1, ?_⟩
    rintro en rfl
    by_contra hflag
    rw [exec_setScroll_illegal (Bool.eq_false_iff.2 hflag)] at h
    cases h
    cases hw

/-- With an answer for each transaction the operation sends them all and ends (rules R161 and R170). -/
theorem State.MaySend.exec_enough (h : s.MaySend i) (ht : transactions s i = some ts)
    (hlen : ts.length ≤ s.busIn.length) : exec i s = .next (afterLast i (s.sent ts)).endOp :=
  h.exec_eq.trans (sendStart_enough i s ts ht hlen)

/-! ### An operation that has ended -/

/-- The end of an operation leaves the bus registers as its last answer did (rules R163 and R170). -/
theorem afterLast_bus (i : Instr) (s : State) : (afterLast i s).trace = s.trace ∧
    (afterLast i s).busIn = s.busIn ∧ (afterLast i s).terr = s.terr := by
  rcases afterLast_cases i s with ⟨-, h⟩ | ⟨-, h⟩ <;> rw [h] <;> exact ⟨rfl, rfl, rfl⟩

/-- An instruction that is not left waiting has sent what it sends, or nothing and taken a fault
(rules R170 and R171). -/
theorem exec_ended (h : exec i s = .next t) (hw : t.waiting = false) :
    ∃ ts, (t.halt = false → transactions s i = some ts) ∧ ts.length ≤ s.busIn.length ∧
      t.trace = (s.sent ts).trace ∧ t.busIn = (s.sent ts).busIn ∧ t.terr = (s.sent ts).terr := by
  cases exec_effect h with
  | fault _ _ _ _ ht => subst ht; exact ⟨[], nofun, by simp⟩
  | draw _ hi ht =>
    subst ht
    rcases hi with rfl | ⟨_, _, _, rfl⟩ | ⟨_, _, _, _, _, rfl⟩ | ⟨_, _, _, rfl⟩ <;>
      exact ⟨[], fun _ => rfl, by simp⟩
  | window _ _ _ _ hi _ ht => subst hi ht; exact ⟨[], fun _ => rfl, by simp⟩
  | send _ _ _ hs =>
    obtain ⟨ts, hts, ⟨hlen, rfl⟩ | ⟨-, rfl⟩⟩ := sendStart_cases hs
    · exact ⟨ts, fun _ => hts, hlen, afterLast_bus i (s.sent ts)⟩
    · cases hw

/-- A command transaction has two bytes (rule R90). -/
theorem flatten_cmdTransactions_length (l : List Byte) :
    (cmdTransactions l).flatten.length = 2 * l.length := by
  induction l with
  | nil => rfl
  | cons c l ih =>
    have hcons : (cmdTransactions (c :: l)).flatten.length =
        2 + (cmdTransactions l).flatten.length := List.length_append (as := cmdTransaction c)
    rw [hcons, ih, List.length_cons]
    omega

/-! ### An operation that is resumed -/

theorem sendAll_cons_unanswered (i : Instr) (done : State → State) (t : Transaction)
    (ts : List Transaction) (hb : s.busIn = []) :
    sendAll i done (t :: ts) s = .next ((s.emit t).waitIn i) := by
  simp only [sendAll, hb]

theorem sendAll_cons_answered (i : Instr) (done : State → State) (t : Transaction)
    (ts : List Transaction) {ok : Bool} {rest : List Bool} (hb : s.busIn = ok :: rest) :
    sendAll i done (t :: ts) s = sendAll i done ts ((s.emit t).answered ok rest) := by
  simp only [sendAll, hb]

/-- What is sent does not depend on whether the operation has waited before. -/
theorem sendAll_waitIn (i : Instr) (ts : List Transaction) (s : State) :
    sendAll i (afterLast i) ts (s.waitIn i) = sendAll i (afterLast i) ts s := by
  induction ts generalizing s with
  | nil => exact congrArg Host.Outcome.next (afterLast_endOp i (s.waitIn i) s rfl)
  | cons t ts ih =>
    cases hb : s.busIn with
    | nil =>
      rw [sendAll_cons_unanswered (s := s.waitIn i) _ _ _ _ hb, sendAll_cons_unanswered _ _ _ _ hb]
      rfl
    | cons ok rest =>
      rw [sendAll_cons_answered (s := s.waitIn i) _ _ _ _ hb, sendAll_cons_answered _ _ _ _ hb]
      exact ih ((s.emit t).answered ok rest)

/-- An operation that stalls and is then answered sends the rest as it would have with all the answers
at hand (rule R169). -/
theorem sendAll_stalled_answer (i : Instr) (ok : Bool) (later : List Bool)
    (h : s.busIn.length < ts.length) :
    sendAll i (afterLast i) (ts.drop (s.busIn.length + 1))
        (((s.stalled i ts).answer (ok :: later)).answered ok later) =
      sendAll i (afterLast i) ts (s.answer (ok :: later)) := by
  induction ts generalizing s with
  | nil => cases h
  | cons t ts ih =>
    cases hb : s.busIn with
    | nil =>
      have hwaits : ((s.stalled i (t :: ts)).answer (ok :: later)).answered ok later =
          (((s.answer (ok :: later)).emit t).answered ok later).waitIn i := by
        simp [State.stalled, State.answer, State.answered, State.emit, State.waitIn, hb]
      rw [hwaits, sendAll_waitIn, sendAll_cons_answered (s := s.answer _) (rest := later) _ _ _ _
        (by rw [State.answer_busIn, hb]; rfl)]
      rfl
    | cons a rest =>
      have hnext : s.stalled i (t :: ts) = ((s.emit t).answered a rest).stalled i ts := by
        simp [State.stalled, State.emit, State.answered, terrAfter, hb, Bool.or_assoc,
          Nat.add_comm, Nat.add_left_comm]
      rw [hnext, sendAll_cons_answered (s := s.answer _) (rest := rest ++ ok :: later) _ _ _ _
        (by rw [State.answer_busIn, hb]; rfl)]
      exact ih (s := (s.emit t).answered a rest) (by simpa [hb] using h)

/-- A stalled operation goes on as soon as an answer is there (rule R169). -/
theorem step_stalled_answer (hl : s.cfg.legal = true) (hr : s.rst = false) (i : Instr)
    (ts : List Transaction) (ok : Bool) (later : List Bool) :
    step ((s.stalled i ts).answer (ok :: later)) =
      sendResume i (((s.stalled i ts).answer (ok :: later)).answered ok later) :=
  (step_eq_stepLive (s := (s.stalled i ts).answer (ok :: later)) hl hr).trans rfl

/-- What an operation has still to send, read in a later state of it (rule R66). -/
theorem sendResume_of_transactions (u : State) (hc : u.cfg = s.cfg) (hw : u.win = s.win)
    (hf : u.fb = s.fb) (hts : transactions s i = some ts) :
    sendResume i u = sendAll i (afterLast i) (ts.drop u.seqIdx) u := by
  simp only [sendResume, transactions_congr i u s hc hw hf, hts]

/-- One step of an operation that stalled and is answered later does what the operation does with those
answers at hand (rules R61 and R169). -/
theorem step_stalled_eq_sendStart (hl : s.cfg.legal = true) (hr : s.rst = false)
    (hts : transactions s i = some ts) (hlen : s.busIn.length < ts.length) (ok : Bool)
    (later : List Bool) :
    step ((s.seqStart.stalled i ts).answer (ok :: later)) =
      sendStart i (s.answer (ok :: later)) := by
  have hidx : (((s.seqStart.stalled i ts).answer (ok :: later)).answered ok later).seqIdx =
      s.seqStart.busIn.length + 1 := by simp [State.stalled]
  calc step ((s.seqStart.stalled i ts).answer (ok :: later))
      = sendResume i (((s.seqStart.stalled i ts).answer (ok :: later)).answered ok later) :=
        step_stalled_answer (s := s.seqStart) hl hr i ts ok later
    _ = sendAll i (afterLast i) (ts.drop (s.seqStart.busIn.length + 1))
          (((s.seqStart.stalled i ts).answer (ok :: later)).answered ok later) :=
        hidx ▸ sendResume_of_transactions _ rfl rfl rfl hts
    _ = sendAll i (afterLast i) ts (s.seqStart.answer (ok :: later)) :=
        sendAll_stalled_answer i ok later hlen
    _ = sendResume i (s.answer (ok :: later)).seqStart :=
        (sendResume_of_transactions (s.answer (ok :: later)).seqStart rfl rfl rfl hts).symm
    _ = sendStart i (s.answer (ok :: later)) := (sendStart_eq_sendResume i _).symm

end Sys2Proof.Machine
end

section
/-! PROOF. The statements of spec/44_display.md: INIT, RENDER, SETSCROLL and the framings, waiting for the
bus, and what its answers can change. -/

open Sys2Proof Sys2Proof.Machine Sys2Proof.Config

/-- Settles O34: the tests of a step, and of every operation, read neither the answers nor `TERR`; only
how many answers there are decides whether the operation waits. -/
theorem answersChangeNothingButTerr : Obligations.AnswersChangeNothingButTerr :=
  fun _ _ h => (step_same h).butAnswers

/-- Settles O23: the bring-up list is the one of its commands, written out; its 26 transactions are all
answered. -/
theorem initSendsBringUpListOrFaults : Obligations.InitSendsBringUpListOrFaults := by
  refine ⟨rfl, fun s => ⟨fun hd hlen => ?_, fun hd => ?_⟩⟩
  · have hmay : s.MaySend .init := ⟨.inl rfl, fun _ => hd, nofun, nofun⟩
    rw [hmay.exec_enough rfl hlen, bringUpListIsItsCommands s.cfg]
    rfl
  · simp only [exec, execInit, hd, raise]

/-- Settles O24: the slice of the window is in the framebuffer, so the payload is the bytes that single
reads give. -/
theorem renderSendsContiguousRunOrFaults : Obligations.RenderSendsContiguousRunOrFaults := by
  refine ⟨rfl, fun s => ⟨fun hf hw hd hlen => ?_, fun hd => ?_⟩⟩
  · have hmay : s.MaySend .render := ⟨.inr (.inl rfl), nofun, fun _ => hd, nofun⟩
    obtain ⟨p, hp, hplen, hread⟩ := Memory.slice_eq_reads hf hw.slice_le
    have hts : transactions s .render =
        some (cmdTransactions (addressBytes s.cfg s.win) ++ [dataTransaction p]) := by
      rw [transactions, renderTransactions, renderPayload, hp]
      rfl
    exact ⟨p, hplen, hread, hmay.exec_enough hts hlen⟩
  · simp only [exec, execRender, hd, raise]

/-- Settles O25: a legal flag is `0x00` or `0x01`, and the last byte shows which. -/
theorem setScrollSendsEightBytesOrFaults : Obligations.SetScrollSendsEightBytesOrFaults := by
  intro s en
  refine ⟨rfl, fun hen hlen => ?_, fun h0 h1 => exec_setScroll_illegal (flagLegal_eq_false h0 h1) s⟩
  have hmay : s.MaySend (.setScroll en) :=
    ⟨.inr (.inr (.inl ⟨en, rfl⟩)), nofun, nofun, fun _ he => by
      cases he
      exact (flagLegal_iff en).2 hen⟩
  rw [hmay.exec_enough rfl hlen]
  rcases hen with rfl | rfl <;>
    simp [afterLast, scrollTransactions, scrollSeq, scrollLast, flagBit, cmdTransactions,
      cmdTransaction, ctrlCommandByte]

/-- Settles O29: a framing is its own one transaction. -/
theorem framingsSendOneTransaction : Obligations.FramingsSendOneTransaction := by
  intro s c p hlen
  exact ⟨(exec_eq_sendStart rfl s).trans (sendStart_enough _ s _ rfl hlen),
    fun _ => (exec_eq_sendStart rfl s).trans (sendStart_enough _ s _ rfl hlen)⟩

/-- Settles O31: an instruction with more transactions than answers sends, and its checks are passed. -/
theorem silentBusLeavesOperationWaiting : Obligations.SilentBusLeavesOperationWaiting := by
  intro s i ts hinit hrender hscroll hts hlen
  have hmay : s.MaySend i := by
    refine ⟨sends_of_transactions hts ?_, hinit, hrender, fun en he =>
      (flagLegal_iff en).2 (hscroll en he)⟩
    rintro rfl
    cases hlen
  rw [hmay.exec_eq, sendStart_short i s ts hts hlen]

/-- Settles O33: the operation that waits has stalled while sending, and the answers that come later are
used as if they had come at once. -/
theorem lateAnswersGiveTheSameEnd : Obligations.LateAnswersGiveTheSameEnd := by
  intro s t i ok later hl hr _ h hwait
  have hmay := maySend_of_waiting h hwait
  rw [hmay.exec_eq] at h
  obtain ⟨ts, hts, ⟨-, rfl⟩ | ⟨hlen, rfl⟩⟩ := sendStart_cases h
  · cases hwait
  · rw [step_stalled_eq_sendStart hl hr hts hlen, (hmay.of_dcState (State.answer_dcState ..)).exec_eq]

/-- Settles O35: the bus registers after an instruction that has ended are those of a state that has sent
its transactions. -/
theorem terrRecordsEveryFailedTransaction : Obligations.TerrRecordsEveryFailedTransaction := by
  intro s t i h hw
  obtain ⟨ts, -, hlen, htrace, hbus, hterr⟩ := exec_ended h hw
  exact ⟨ts, htrace, hlen, hbus, hterr⟩

/-- Settles O38: of the four effects of an instruction only a fault taken raises `HALT`. -/
theorem faultingOperationSendsNothing : Obligations.FaultingOperationSendsNothing := by
  intro s t i h hs ht
  cases exec_effect h with
  | fault c a b m he hm =>
    subst he
    exact ⟨rfl, rfl, rfl, rfl, rfl, rfl, rfl, c.code_ne_zero, hm⟩
  | draw m _ he => subst he; exact absurd (hs.symm.trans ht) nofun
  | window _ _ _ _ _ _ he => subst he; exact absurd (hs.symm.trans ht) nofun
  | send _ _ _ hsend =>
    obtain ⟨-, -, -, hhalt, -⟩ := sendStart_writes hsend
    rw [hhalt, hs] at ht
    cases ht

/-- Settles O51: without a fault the instruction has sent its transactions, whose bytes are counted
operation by operation. -/
theorem transactionCounts : Obligations.TransactionCounts := by
  intro s t i _ h hhalt hw hhost
  obtain ⟨ts, hts, -, htrace, -⟩ := exec_ended h hw
  replace hts := hts hhalt
  refine ⟨ts, htrace, ?_, ?_, ?_, ?_⟩
  · rintro rfl
    cases hts
    exact ⟨rfl, flatten_cmdTransactions_length _⟩
  · rintro rfl hf hwin
    obtain ⟨p, hp, hplen, -⟩ := renderPayload_of_ok hf hwin
    rw [transactions, renderTransactions, hp] at hts
    cases hts
    have hdata : [dataTransaction p].flatten.length = 1 + s.win.buflen.toNat := by
      simp [dataTransaction, hplen, Nat.add_comm]
    refine ⟨rfl, ?_⟩
    rw [List.flatten_append, List.length_append, flatten_cmdTransactions_length, hdata]
    exact (Nat.add_assoc 12 1 _).symm
  · rintro ⟨en, rfl⟩
    cases hts
    exact ⟨rfl, flatten_cmdTransactions_length _⟩
  · intro hinit hrender hscroll
    by_contra hne
    rcases sends_of_transactions hts hne with hi | hi | ⟨en, hi⟩ | hi
    · exact hinit hi
    · exact hrender hi
    · exact hscroll en hi
    · rw [hhost] at hi
      cases hi

/-- Settles O32: a transaction in flight is resumed, and there is no answer to resume it with. -/
theorem noStepPastUnansweredTransaction : Obligations.NoStepPastUnansweredTransaction := by
  intro s i hl hr hc hw hb
  simp only [step_eq_stepLive hl hr, stepLive, hc, proceed, hw, if_true, resume, hb]
end

section
/-! SUPPORT. The cause codes (rule R195) as the places of the causes in their table, counted from 1. -/

namespace Sys2Proof.Machine

/-- A code leads back to its cause (rule R195). -/
theorem Cause.ofNat_code (c : Cause) : Cause.ofNat (c.code.toNat - 1) = c := by
  cases c <;> rfl

theorem Cause.code_injective : Function.Injective Cause.code :=
  Function.LeftInverse.injective (g := fun b : Byte => Cause.ofNat (b.toNat - 1)) Cause.ofNat_code

end Sys2Proof.Machine
end

section
/-! PROOF. The statements of spec/60_exceptions.md: fault entry, the causes, what raises nothing, and the
halted block. -/

open Sys2Proof Sys2Proof.Machine

/-- Settles O39: CLEAR ends with another framebuffer, and so does WRITESTRING; the end of an operation
leaves `HALT` and `CAUSE` alone. -/
theorem clearAndWriteStringRaiseNothing : Obligations.ClearAndWriteStringRaiseNothing := by
  intro s x y str
  constructor
  · obtain ⟨m, hm, -⟩ := clearZeroFills.2 s
    exact ⟨(s.setFb m).endOp, hm, by simp⟩
  · obtain ⟨m, hm, -⟩ := execWriteString_cases x y str s
    exact ⟨(s.setFb m).endOp, hm, by simp⟩

/-- Settles O36: the state of a fault taken, read field by field. -/
theorem faultEntryLatches : Obligations.FaultEntryLatches :=
  fun s c a b => ⟨s.faulted c a b, rfl, by simp⟩

/-- Settles O37: the table of rule R195, whose codes lead back to their causes. -/
theorem causeCodes : Obligations.CauseCodes :=
  ⟨rfl, rfl, rfl, rfl, rfl, rfl, Cause.code_ne_zero, fun _ _ h => Cause.code_injective h⟩

/-- Settles O41: a halted block that meets the invariant has no operation in progress, so the step comes
to the test of `HALT`, which stands before the fetch. -/
theorem haltedBlockIsDead : Obligations.HaltedBlockIsDead := by
  intro s hinv hhalt hrst
  obtain ⟨hcur, -⟩ := hinv.haltIdle hhalt
  rw [step_eq_stepLive hinv.cfgLegal hrst]
  simp [stepLive, hcur, hhalt]
end

section
/-! SUPPORT. The step under reset (rule R220), and the idle block of a run at its end (rule R234). -/

namespace Sys2Proof.Machine

/-- A step of a legal build with `rst` asserted is a reset, whatever was in progress (rule R220). -/
theorem step_eq_resetNow {s : State} (hl : s.cfg.legal = true) (hr : s.rst = true) :
    step s = .next s.resetNow := by
  simp [step, stepOnce, hl, hr]

theorem State.resetNow_fbOk (s : State) : s.resetNow.FbOk := wf_freshFb s.cfg (s.epoch + 1)

/-- With `BUSY = 0` no operation is in progress and no byte of a packet is taken (rule R25). -/
theorem State.Inv.idle_of_not_busy {s : State} (h : s.Inv) (hb : s.busy = false) :
    s.cur = none ∧ s.pkt = [] := by
  simpa [h.busyIff] using hb

/-- An operation with a transaction in flight is not halted (rules R169 and R208). -/
theorem State.Inv.halt_of_waiting {s : State} (h : s.Inv) (hw : s.waiting = true) :
    s.halt = false := by
  obtain ⟨i, -, -, hc, -⟩ := h.inFlight hw
  exact h.running hc

/-- A fetch with no byte taken and none offered changes nothing (rule R32). -/
theorem fetch_of_no_bytes {s : State} (hp : s.pkt = []) (hin : s.cmdIn = []) : fetch s = .next s := by
  have hd : decode s.portBytes = .incomplete := by
    rw [s.portBytes_of_pkt hp, hin]
    rfl
  have ht : s.takeAll = s := if_pos (by simp [hin])
  rw [fetch, hd, ht]

theorem State.finished_iff (s : State) :
    s.finished = true ↔ s.cmdIn = [] ∧ s.busy = false ∧ s.waiting = false := by
  simp [State.finished, and_assoc]

end Sys2Proof.Machine
end

section
/-! PROOF. The statements of spec/70_reset_and_hazards.md: reset, and the end of a run. -/

open Sys2Proof Sys2Proof.Machine

/-- Settles O46: the step is a reset, whose state has every register at its reset value by definition
and `FB` in its canonical form whatever bytes the reset left in it. -/
theorem resetFromAnyState : Obligations.ResetFromAnyState := by
  intro s hl hr
  exact ⟨s.resetNow, step_eq_resetNow hl hr, rfl, rfl, rfl, rfl, rfl, rfl, rfl, rfl, rfl, rfl, rfl, rfl,
    rfl, rfl, rfl, s.resetNow_fbOk⟩

/-- Settles O55: a failed run is over and its block is dead; a run that is over without a fault has
finished, so its step is a fetch with nothing to take; a run that waits has neither failed nor
finished. -/
theorem overIsFinal : Obligations.OverIsFinal := by
  intro s hinv hrst
  refine ⟨fun hhalt => ?_, fun hover hhalt => ?_, fun hwait => ?_⟩
  · exact ⟨by simp [State.runOver, State.failed, hhalt], by simp [State.goodEnd, State.failed, hhalt],
      haltedBlockIsDead s hinv hhalt hrst⟩
  · have hfin : s.finished = true := by simpa [State.runOver, State.failed, hhalt] using hover
    obtain ⟨hin, hbusy, -⟩ := s.finished_iff.1 hfin
    obtain ⟨hcur, hpkt⟩ := hinv.idle_of_not_busy hbusy
    have hstep : step s = .next s := by
      rw [step_eq_fetch hinv.cfgLegal hrst hcur hhalt, fetch_of_no_bytes hpkt hin]
    exact ⟨by simp [State.goodEnd, State.failed, hover, hhalt], hcur, hpkt, hin, hstep⟩
  · simp [State.runOver, State.finished, State.failed, hwait, hinv.halt_of_waiting hwait]
end
